-- ==== Sys2Proof/Word.lean ====
section
/-! DEFINITION. The words of the block: the byte of R11 and byte sequences of R12. Every other width is written
where it is used, as the port table of R21 gives it; all values are unsigned (R11, R196). -/

namespace Sys2Proof

/-- A byte, bit 7 the most significant (R11, R54). -/
abbrev Byte := BitVec 8

/-- A byte buffer, numbered from 0; byte 0 is the first on the wire (R12, R50, R51). -/
abbrev Bytes := List Byte

end Sys2Proof
end

