-- ==== Sys2Proof/Config.lean ====
section
/-! DEFINITION. The constants the source fixes (R6) and the one parameter it leaves open (R7). There is no free
value: no rule leaves a value of a response open (R130, R149). -/

namespace Sys2Proof.Config

/-- `HDR_MIN` (R6): the header length when the timecode flag is clear, and the least length of any frame. -/
abbrev hdrMin : Nat := 10

/-- `HDR_TC` (R6): the header length when the timecode flag is set, and the least length of such a frame. -/
abbrev hdrTc : Nat := 14

/-- The values the open parameter `MAX_WIRE` may take (R7): unbounded (`none`), or a number at least 14. -/
def maxWireLegal : Option Nat → Bool
  | none => true
  | some n => 14 ≤ n

end Sys2Proof.Config
end

