-- ==== Sys2Proof/Machine/Operands.lean ====
section
/-! DEFINITION. Operand forms: the shared bit-field layout table (R160), the sequence and data-type bytes (R163 to
R165, R168), the size-code table read in both directions (R92, R166, R167, R171), and the big-endian form of the
whole-byte fields (R13, R53). The flags byte is in Flags.lean. -/

namespace Sys2Proof.Machine

/-- A row of the layout table R160 with its width `w`: the byte it lies in, the index of its least significant bit,
and its polarity. -/
structure BitField (w : Nat) where
  byte : Nat
  off : Nat
  inverted : Bool
deriving DecidableEq, Repr

/-- Unpack: `(byte >> o) & (2^w - 1)`, complemented for the inverted field (R160). -/
def BitField.unpack {w : Nat} (fd : BitField w) (b : Byte) : BitVec w :=
  if fd.inverted then ~~~ (b.extractLsb' fd.off w) else b.extractLsb' fd.off w

/-- Pack: what the field contributes to its byte, `value << o` (R160). -/
def BitField.pack {w : Nat} (fd : BitField w) (v : BitVec w) : Byte :=
  ((if fd.inverted then ~~~ v else v).setWidth 8) <<< fd.off

/-- The field's mask in its byte (R160). -/
def BitField.mask {w : Nat} (fd : BitField w) : Byte :=
  ((BitVec.allOnes w).setWidth 8) <<< fd.off

/-! The layout table R160, used by unpacking and packing alike. -/
def fldVer : BitField 2 := ⟨0, 6, false⟩
def fldRes0 : BitField 1 := ⟨0, 5, false⟩
def fldTc : BitField 1 := ⟨0, 4, false⟩
def fldSt : BitField 1 := ⟨0, 3, false⟩
def fldRp : BitField 1 := ⟨0, 2, false⟩
def fldQy : BitField 1 := ⟨0, 1, false⟩
def fldPu : BitField 1 := ⟨0, 0, false⟩
def fldRes1 : BitField 4 := ⟨1, 4, false⟩
def fldSeq : BitField 4 := ⟨1, 0, false⟩
def fldStd : BitField 1 := ⟨2, 7, true⟩
def fldRes2 : BitField 1 := ⟨2, 6, false⟩
def fldType : BitField 3 := ⟨2, 3, false⟩
def fldSize : BitField 3 := ⟨2, 0, false⟩

/-- The masks of the table's rows with the byte each lies in, in R160's order. -/
def layoutMasks : List (Nat × Byte) :=
  [(fldVer.byte, fldVer.mask), (fldRes0.byte, fldRes0.mask), (fldTc.byte, fldTc.mask), (fldSt.byte, fldSt.mask),
   (fldRp.byte, fldRp.mask), (fldQy.byte, fldQy.mask), (fldPu.byte, fldPu.mask)] ++
  [(fldRes1.byte, fldRes1.mask), (fldSeq.byte, fldSeq.mask)] ++
  [(fldStd.byte, fldStd.mask), (fldRes2.byte, fldRes2.mask), (fldType.byte, fldType.mask),
   (fldSize.byte, fldSize.mask)]

/-- `UNPACK_SEQ(b)` (R163): the low nibble; the high nibble is not read. It undoes `packSeq` (R170). -/
def unpackSeq (b : Byte) : BitVec 4 := fldSeq.unpack b

/-- `PACK_SEQ(SEQ)` (R164): zero-extended, the high nibble 0. Of `unpackSeq b` it gives
`b & 0x0F` (R170). -/
def packSeq (seq : BitVec 4) : Byte := fldSeq.pack seq

/-- `UNPACK_DTYPE(b)` (R165): `STD` (bit 7 inverted), `TYPE`, raw size code; bit 6 is not read (log 15). It undoes
`packDtype` (R170). -/
def unpackDtype (b : Byte) : BitVec 1 × BitVec 3 × BitVec 3 :=
  (fldStd.unpack b, fldType.unpack b, fldSize.unpack b)

/-- `PACK_DTYPE(STD, TYPE, z)` (R168); bit 6 of the result is 0. Of an unpacked byte it gives `b & 0xBF` (R170,
`unpackDtype`). The row 'all ports at their maximum' of R155 gives byte 2 = BE, which this operation gives for
`STD` = 0 only; for `STD` = 1, `TYPE` = 7, `z` = 6 it gives 3E: DESIGN CHOICE, the row read with `STD` = 0 (log 22). -/
def packDtype (std : BitVec 1) (type : BitVec 3) (z : BitVec 3) : Byte :=
  fldStd.pack std ||| fldType.pack type ||| fldSize.pack z

/-- The one size-code table of R92, pairs of raw size code and bits per pixel (R171). -/
def sizeTable : List (BitVec 3 × BitVec 8) :=
  [(0, 0), (1, 1), (2, 4), (3, 8), (4, 16), (5, 24), (6, 32)]

/-- `SIZE2BPP(z)` (R166): the table read by code; code 7 fails (`none`). Inverse of
`bpp2size` on the codes 0 to 6 (R170). -/
def size2bpp (z : BitVec 3) : Option (BitVec 8) := (sizeTable.find? (fun p => p.1 == z)).map (fun p => p.2)

/-- `BPP2SIZE(v)` (R167): the same table read by value; every other value gives `none`. Inverse of
`size2bpp` on `BPP_SET` (R170). -/
def bpp2size (v : BitVec 8) : Option (BitVec 3) := (sizeTable.find? (fun p => p.2 == v)).map (fun p => p.1)

/-- The 16-bit value of two bytes, the first the more significant (R13, R181). -/
def be16 (b0 b1 : Byte) : BitVec 16 := b0 ++ b1

/-- The 32-bit value of four bytes, the first the most significant (R13, R182). -/
def be32 (b0 b1 b2 b3 : Byte) : BitVec 32 := (b0 ++ b1) ++ (b2 ++ b3)

/-- The bytes of a 16-bit value, `v[15:8], v[7:0]` (R184). -/
def bytes16 (v : BitVec 16) : Bytes := [v.extractLsb' 8 8, v.extractLsb' 0 8]

/-- The bytes of a 32-bit value, `v[31:24], v[23:16], v[15:8], v[7:0]` (R185). -/
def bytes32 (v : BitVec 32) : Bytes :=
  [v.extractLsb' 24 8, v.extractLsb' 16 8, v.extractLsb' 8 8, v.extractLsb' 0 8]

/-- Byte 2 from the letters of its pattern `n x t t t z z z` (R84): `n` is the wire bit, not `STD`. -/
def dtypeByte (n x : BitVec 1) (t z : BitVec 3) : Byte := n ++ x ++ t ++ z

end Sys2Proof.Machine
end

