-- ==== Sys2Proof/Machine/Flags.lean ====
section
/-! DEFINITION. The flags byte of the frame (R82, R161, R162). The block has no condition codes and no operation
writes a processor flag (R36): "flags" are packet fields here. -/

namespace Sys2Proof.Machine

/-- `UNPACK_FLAGS(b)` (R161): `VER`, `TC`, `ST`, `RP`, `QY`, `PU`; bit 5 is not read. It undoes `packFlags`
(R170). -/
def unpackFlags (b : Byte) : BitVec 2 × BitVec 1 × BitVec 1 × BitVec 1 × BitVec 1 × BitVec 1 :=
  (fldVer.unpack b, fldTc.unpack b, fldSt.unpack b, fldRp.unpack b, fldQy.unpack b, fldPu.unpack b)

/-- `PACK_FLAGS(VER, TC, ST, RP, QY, PU)` (R162): the contributions or-ed; bit 5 of the result is 0. Of an
unpacked byte it gives `b & 0xDF` (R170, `unpackFlags`). -/
def packFlags (ver : BitVec 2) (tc st rp qy pu : BitVec 1) : Byte :=
  fldVer.pack ver ||| fldTc.pack tc ||| fldSt.pack st ||| fldRp.pack rp ||| fldQy.pack qy ||| fldPu.pack pu

end Sys2Proof.Machine
end

