-- ==== Sys2Proof/Syntax.lean ====
section
/-! DEFINITION. The syntax: one constructor of `Instr` per row of spec/opcode_table.json, in the table's order,
with the operands of the row's rule. An operand that is a whole buffer (`WIRE`, `W`, `PAY`) is the port of that
name in the machine's state; every other operand stands in the constructor. -/

namespace Sys2Proof

/-- The 39 rows. `dec` and `enc` are the host's operations (R99); the sixteen micro-operations are internal (R100);
the wire, size-code and status rows are the encodings of R82 to R92 and R9. -/
inductive Instr where
  -- command
  /-- `DEC` (R120): operand `WIRE`. -/
  | dec
  /-- `ENC` (R140): operands `F` and `PAY`. -/
  | enc
  -- bit-field marshaller
  /-- `UNPACK_FLAGS(b)` (R161). -/
  | unpackFlags (b : Byte)
  /-- `PACK_FLAGS(VER, TC, ST, RP, QY, PU)` (R162). -/
  | packFlags (ver : BitVec 2) (tc st rp qy pu : BitVec 1)
  /-- `UNPACK_SEQ(b)` (R163). -/
  | unpackSeq (b : Byte)
  /-- `PACK_SEQ(SEQ)` (R164). -/
  | packSeq (seq : BitVec 4)
  /-- `UNPACK_DTYPE(b)` (R165). -/
  | unpackDtype (b : Byte)
  /-- `SIZE2BPP(z)` (R166). -/
  | size2bpp (z : BitVec 3)
  /-- `BPP2SIZE(v)` (R167). -/
  | bpp2size (v : BitVec 8)
  /-- `PACK_DTYPE(STD, TYPE, z)` (R168). -/
  | packDtype (std : BitVec 1) (type : BitVec 3) (z : BitVec 3)
  -- serializer / deserializer
  /-- `GET8(WIRE, i)` (R180). -/
  | get8 (i : Nat)
  /-- `GET16BE(WIRE, i)` (R181). -/
  | get16be (i : Nat)
  /-- `GET32BE(WIRE, i)` (R182). -/
  | get32be (i : Nat)
  /-- `PUT8(W, i, v)` (R183). -/
  | put8 (i : Nat) (v : BitVec 8)
  /-- `PUT16BE(W, i, v)` (R184). -/
  | put16be (i : Nat) (v : BitVec 16)
  /-- `PUT32BE(W, i, v)` (R185). -/
  | put32be (i : Nat) (v : BitVec 32)
  /-- `SLICE(WIRE, h)` (R186). -/
  | slice (h : Nat)
  /-- `APPEND(W, PAY)` (R187). -/
  | append
  -- wire frame
  /-- Byte 0, the flags byte (R82). -/
  | wireByte0 (b : Byte)
  /-- Byte 1, the sequence byte (R83). -/
  | wireByte1 (b : Byte)
  /-- Byte 2, the data-type byte (R84). -/
  | wireByte2 (b : Byte)
  /-- Byte 3, `ID` (R85). -/
  | wireByte3 (id : BitVec 8)
  /-- Bytes 4 to 7, `OFFSET` (R86). -/
  | wireBytes4to7 (offset : BitVec 32)
  /-- Bytes 8 to 9, `LENGTH` (R87). -/
  | wireBytes8to9 (length : BitVec 16)
  /-- Bytes 10 to 13, `SEC` and `FRAC` when the timecode flag is set (R88). -/
  | wireBytes10to13 (sec frac : BitVec 16)
  /-- The payload bytes (R89). -/
  | wirePayload (p : Bytes)
  -- byte 2 with each size code: pattern `n x t t t z z z` with `z` fixed (R84, R92)
  | sizeCode0 (n x : BitVec 1) (t : BitVec 3)
  | sizeCode1 (n x : BitVec 1) (t : BitVec 3)
  | sizeCode2 (n x : BitVec 1) (t : BitVec 3)
  | sizeCode3 (n x : BitVec 1) (t : BitVec 3)
  | sizeCode4 (n x : BitVec 1) (t : BitVec 3)
  | sizeCode5 (n x : BitVec 1) (t : BitVec 3)
  | sizeCode6 (n x : BitVec 1) (t : BitVec 3)
  | sizeCode7 (n x : BitVec 1) (t : BitVec 3)
  -- the values of `ERR` (R9)
  | errOk
  | errTooShort
  | errUnknownSizeCode
  | errUnsupportedBitsPerPixel
  | errMissingTimecode
deriving DecidableEq, Repr

/-- The name of a row: what selects an operation (R101, column "selected by"). The bits of a row do not select it:
only `OP` is an operation code (R99, R100). -/
inductive Row where
  | dec | enc
  | unpackFlags | packFlags | unpackSeq | packSeq | unpackDtype | size2bpp | bpp2size | packDtype
  | get8 | get16be | get32be | put8 | put16be | put32be | slice | append
  | wireByte0 | wireByte1 | wireByte2 | wireByte3 | wireBytes4to7 | wireBytes8to9 | wireBytes10to13 | wirePayload
  | sizeCode0 | sizeCode1 | sizeCode2 | sizeCode3 | sizeCode4 | sizeCode5 | sizeCode6 | sizeCode7
  | errOk | errTooShort | errUnknownSizeCode | errUnsupportedBitsPerPixel | errMissingTimecode
deriving DecidableEq, Repr

/-- An encoded row: which row (by its selection, R101), the constant index of a load, store or slice (R188; 0 where
the row has none), and the row's own bits as bytes (a pattern of less than eight bits in the low bits of one byte;
a wider one most significant byte first, R53). -/
structure Code where
  row : Row
  index : Nat
  bytes : Bytes
deriving DecidableEq, Repr

end Sys2Proof
end

