-- ==== Sys2Proof/WellFormed.lean ====
section
/-! DEFINITION. Which instructions are legal operands for their rule (R168, R186, R188). The widths of the other
operands are in their types (R197). -/

namespace Sys2Proof

/-- The constant indices of the fields of each width (R188, and the rows' "index"): 8 bits at 0 to 3, 16 bits at
8, 10, 12, 32 bits at 4. -/
def index8 (i : Nat) : Bool := i < 4
def index16 (i : Nat) : Bool := i == 8 || i == 10 || i == 12
def index32 (i : Nat) : Bool := i == 4

/-- The two header lengths `SLICE` takes (R186). -/
def headerLength (h : Nat) : Bool := h == 10 || h == 14

/-- An instruction whose operands its rule allows. -/
def Instr.wf : Instr → Bool
  | .dec | .enc => true
  | .unpackFlags _ | .packFlags _ _ _ _ _ _ | .unpackSeq _ | .packSeq _ | .unpackDtype _ => true
  | .size2bpp _ | .bpp2size _ => true
  | .packDtype _ _ z => z.toNat ≤ 6
  | .get8 i | .put8 i _ => index8 i
  | .get16be i | .put16be i _ => index16 i
  | .get32be i | .put32be i _ => index32 i
  | .slice h => headerLength h
  | .append => true
  | .wireByte0 _ | .wireByte1 _ | .wireByte2 _ | .wireByte3 _ => true
  | .wireBytes4to7 _ | .wireBytes8to9 _ | .wireBytes10to13 _ _ | .wirePayload _ => true
  | .sizeCode0 _ _ _ | .sizeCode1 _ _ _ | .sizeCode2 _ _ _ | .sizeCode3 _ _ _ => true
  | .sizeCode4 _ _ _ | .sizeCode5 _ _ _ | .sizeCode6 _ _ _ | .sizeCode7 _ _ _ => true
  | .errOk | .errTooShort | .errUnknownSizeCode | .errUnsupportedBitsPerPixel | .errMissingTimecode => true

end Sys2Proof
end

