-- ==== Sys2Proof/Decode.lean ====
section
/-! DEFINITION. Decoding and encoding. `decodeOp` reads the one operation code of the block, the bit `OP` (R37, R99).
The other rows have no operation code: what selects them is the place where `DEC` or `ENC` uses them (R100, R101), so
`decode` takes the row and the constant index beside the bits, and reads the row's pattern of R82 to R92, R161 to R187
and R9. Both are total; a code a row does not allow is rejected by name. `encode` is written from the same patterns. -/

namespace Sys2Proof

open Sys2Proof.Machine

/-- Why a code is no instruction of its row. -/
inductive DecodeError where
  /-- The number of bytes is not the row's. -/
  | wrongLength
  /-- A bit the row's pattern fixes has another value, or a bit lies above the pattern's width. -/
  | fixedBits
  /-- The index is not one of the row's constants (R188), or the row has none. -/
  | wrongIndex
  /-- An operand value the rule excludes (R168: `z` is at most 6). -/
  | illegalOperand
deriving DecidableEq, Repr

/-- The operation `OP` selects (R37): 0 `DEC`, 1 `ENC`; there is no illegal operation code. -/
def decodeOp (op : BitVec 1) : Instr := if op = 0#1 then .dec else .enc

/-- A row of one byte. -/
def oneByte (bs : Bytes) (f : Byte → Except DecodeError Instr) : Except DecodeError Instr :=
  match bs with
  | [b] => f b
  | _ => .error .wrongLength

/-- A row of two bytes, read big-endian (R53). -/
def twoBytes (bs : Bytes) (f : BitVec 16 → Except DecodeError Instr) : Except DecodeError Instr :=
  match bs with
  | [b0, b1] => f (be16 b0 b1)
  | _ => .error .wrongLength

/-- A row of four bytes, read big-endian (R53). -/
def fourBytes (bs : Bytes) (f : BitVec 32 → Except DecodeError Instr) : Except DecodeError Instr :=
  match bs with
  | [b0, b1, b2, b3] => f (be32 b0 b1 b2 b3)
  | _ => .error .wrongLength

/-- A row whose bits are all in state (a load's data, a buffer): no byte of its own. -/
def noBytes (bs : Bytes) (i : Instr) : Except DecodeError Instr :=
  match bs with
  | [] => .ok i
  | _ => .error .wrongLength

/-- Accept only when the pattern's fixed bits are right. -/
def requireFixed (ok : Bool) (i : Instr) : Except DecodeError Instr :=
  if ok then .ok i else .error .fixedBits

/-- A row `n x t t t z z z` with the size code `z` fixed (R92). -/
def sizeRow (z : BitVec 3) (b : Byte) (mk : BitVec 1 → BitVec 1 → BitVec 3 → Instr) : Except DecodeError Instr :=
  requireFixed (fldSize.unpack b == z) (mk (b.extractLsb' 7 1) (b.extractLsb' 6 1) (b.extractLsb' 3 3))

/-- The instruction of a row's bits, its index already checked. -/
def decodeBits (row : Row) (i : Nat) (bs : Bytes) : Except DecodeError Instr :=
  match row with
  | .dec => oneByte bs fun b => requireFixed (b == 0) (decodeOp (b.extractLsb' 0 1))
  | .enc => oneByte bs fun b => requireFixed (b == 1) (decodeOp (b.extractLsb' 0 1))
  | .unpackFlags => oneByte bs fun b => .ok (.unpackFlags b)
  | .packFlags => oneByte bs fun b => requireFixed (fldRes0.unpack b == 0) (.packFlags (fldVer.unpack b) (fldTc.unpack b) (fldSt.unpack b) (fldRp.unpack b) (fldQy.unpack b) (fldPu.unpack b))
  | .unpackSeq => oneByte bs fun b => .ok (.unpackSeq b)
  | .packSeq => oneByte bs fun b => requireFixed (fldRes1.unpack b == 0) (.packSeq (fldSeq.unpack b))
  | .unpackDtype => oneByte bs fun b => .ok (.unpackDtype b)
  | .size2bpp => oneByte bs fun b => requireFixed (b.extractLsb' 3 5 == 0) (.size2bpp (b.extractLsb' 0 3))
  | .bpp2size => oneByte bs fun b => .ok (.bpp2size b)
  | .packDtype => oneByte bs fun b =>
      if fldSize.unpack b = 7 then .error .illegalOperand
      else requireFixed (fldRes2.unpack b == 0) (.packDtype (fldStd.unpack b) (fldType.unpack b) (fldSize.unpack b))
  | .get8 => noBytes bs (.get8 i)
  | .get16be => noBytes bs (.get16be i)
  | .get32be => noBytes bs (.get32be i)
  | .put8 => oneByte bs fun b => .ok (.put8 i b)
  | .put16be => twoBytes bs fun v => .ok (.put16be i v)
  | .put32be => fourBytes bs fun v => .ok (.put32be i v)
  | .slice => noBytes bs (.slice i)
  | .append => noBytes bs .append
  | .wireByte0 => oneByte bs fun b => .ok (.wireByte0 b)
  | .wireByte1 => oneByte bs fun b => .ok (.wireByte1 b)
  | .wireByte2 => oneByte bs fun b => .ok (.wireByte2 b)
  | .wireByte3 => oneByte bs fun b => .ok (.wireByte3 b)
  | .wireBytes4to7 => fourBytes bs fun v => .ok (.wireBytes4to7 v)
  | .wireBytes8to9 => twoBytes bs fun v => .ok (.wireBytes8to9 v)
  | .wireBytes10to13 => fourBytes bs fun v => .ok (.wireBytes10to13 (v.extractLsb' 16 16) (v.extractLsb' 0 16))
  | .wirePayload => .ok (.wirePayload bs)
  | .sizeCode0 => oneByte bs fun b => sizeRow 0 b .sizeCode0
  | .sizeCode1 => oneByte bs fun b => sizeRow 1 b .sizeCode1
  | .sizeCode2 => oneByte bs fun b => sizeRow 2 b .sizeCode2
  | .sizeCode3 => oneByte bs fun b => sizeRow 3 b .sizeCode3
  | .sizeCode4 => oneByte bs fun b => sizeRow 4 b .sizeCode4
  | .sizeCode5 => oneByte bs fun b => sizeRow 5 b .sizeCode5
  | .sizeCode6 => oneByte bs fun b => sizeRow 6 b .sizeCode6
  | .sizeCode7 => oneByte bs fun b => sizeRow 7 b .sizeCode7
  | .errOk => oneByte bs fun b => requireFixed (b == 0) .errOk
  | .errTooShort => oneByte bs fun b => requireFixed (b == 1) .errTooShort
  | .errUnknownSizeCode => oneByte bs fun b => requireFixed (b == 2) .errUnknownSizeCode
  | .errUnsupportedBitsPerPixel => oneByte bs fun b => requireFixed (b == 3) .errUnsupportedBitsPerPixel
  | .errMissingTimecode => oneByte bs fun b => requireFixed (b == 4) .errMissingTimecode

/-- The constant indices a row allows (R188); 0 where it has none. -/
def indexLegal (row : Row) (i : Nat) : Bool :=
  match row with
  | .get8 | .put8 => index8 i
  | .get16be | .put16be => index16 i
  | .get32be | .put32be => index32 i
  | .slice => headerLength i
  | _ => i == 0

/-- The instruction a code stands for, or why it stands for none; total on every code. -/
def decode (c : Code) : Except DecodeError Instr :=
  if indexLegal c.row c.index then decodeBits c.row c.index c.bytes else .error .wrongIndex

/-- The bits of an instruction, in its row's pattern. -/
def encode : Instr → Code
  | .dec => ⟨.dec, 0, [0]⟩
  | .enc => ⟨.enc, 0, [1]⟩
  | .unpackFlags b => ⟨.unpackFlags, 0, [b]⟩
  | .packFlags ver tc st rp qy pu => ⟨.packFlags, 0, [ver ++ (0#1 ++ (tc ++ (st ++ (rp ++ (qy ++ pu)))))]⟩
  | .unpackSeq b => ⟨.unpackSeq, 0, [b]⟩
  | .packSeq seq => ⟨.packSeq, 0, [0#4 ++ seq]⟩
  | .unpackDtype b => ⟨.unpackDtype, 0, [b]⟩
  | .size2bpp z => ⟨.size2bpp, 0, [0#5 ++ z]⟩
  | .bpp2size v => ⟨.bpp2size, 0, [v]⟩
  | .packDtype std type z => ⟨.packDtype, 0, [dtypeByte (~~~ std) 0 type z]⟩
  | .get8 i => ⟨.get8, i, []⟩
  | .get16be i => ⟨.get16be, i, []⟩
  | .get32be i => ⟨.get32be, i, []⟩
  | .put8 i v => ⟨.put8, i, [v]⟩
  | .put16be i v => ⟨.put16be, i, bytes16 v⟩
  | .put32be i v => ⟨.put32be, i, bytes32 v⟩
  | .slice h => ⟨.slice, h, []⟩
  | .append => ⟨.append, 0, []⟩
  | .wireByte0 b => ⟨.wireByte0, 0, [b]⟩
  | .wireByte1 b => ⟨.wireByte1, 0, [b]⟩
  | .wireByte2 b => ⟨.wireByte2, 0, [b]⟩
  | .wireByte3 b => ⟨.wireByte3, 0, [b]⟩
  | .wireBytes4to7 v => ⟨.wireBytes4to7, 0, bytes32 v⟩
  | .wireBytes8to9 v => ⟨.wireBytes8to9, 0, bytes16 v⟩
  | .wireBytes10to13 sec frac => ⟨.wireBytes10to13, 0, bytes16 sec ++ bytes16 frac⟩
  | .wirePayload p => ⟨.wirePayload, 0, p⟩
  | .sizeCode0 n x t => ⟨.sizeCode0, 0, [dtypeByte n x t 0]⟩
  | .sizeCode1 n x t => ⟨.sizeCode1, 0, [dtypeByte n x t 1]⟩
  | .sizeCode2 n x t => ⟨.sizeCode2, 0, [dtypeByte n x t 2]⟩
  | .sizeCode3 n x t => ⟨.sizeCode3, 0, [dtypeByte n x t 3]⟩
  | .sizeCode4 n x t => ⟨.sizeCode4, 0, [dtypeByte n x t 4]⟩
  | .sizeCode5 n x t => ⟨.sizeCode5, 0, [dtypeByte n x t 5]⟩
  | .sizeCode6 n x t => ⟨.sizeCode6, 0, [dtypeByte n x t 6]⟩
  | .sizeCode7 n x t => ⟨.sizeCode7, 0, [dtypeByte n x t 7]⟩
  | .errOk => ⟨.errOk, 0, [0]⟩
  | .errTooShort => ⟨.errTooShort, 0, [1]⟩
  | .errUnknownSizeCode => ⟨.errUnknownSizeCode, 0, [2]⟩
  | .errUnsupportedBitsPerPixel => ⟨.errUnsupportedBitsPerPixel, 0, [3]⟩
  | .errMissingTimecode => ⟨.errMissingTimecode, 0, [4]⟩

/-- The instruction the block's command decoder reads from a word of `nbits` bits numbered as the opcode table numbers
them. The command is the single bit `OP`, bit 0 (R99: "There is no other command field"), so a word of one byte selects
`DEC` or `ENC` by that bit; no command is wider, and such a word is refused. The words of the other rows select nothing
by their bits (R100), see log 6 and log 7. -/
def decodeTableWord (nbits w : Nat) : Option Instr :=
  if nbits = 0 then none else if 8 < nbits then none else some (decodeOp (BitVec.ofNat 1 w))

end Sys2Proof
end

