-- ==== Sys2Proof/Machine/State.lean ====
section
/-! DEFINITION. The state as plain data. The block itself keeps nothing between transactions (R20); what stands here
is what the host has asked and what it has been told (`inbox`, `outbox`), the fields of the transaction in progress
(`op`, `err`, `f`, `pay`, `wire`), and the values the micro-operations hand to one another. -/

namespace Sys2Proof.Machine

/-- The field set `F`, sixteen ports (R21). -/
structure Ports where
  /-- Flags.Version (R22). -/
  ver : BitVec 2
  /-- Flags.Timecode (R22). -/
  tc : BitVec 1
  /-- Flags.Storage (R22). -/
  st : BitVec 1
  /-- Flags.Reply (R22). -/
  rp : BitVec 1
  /-- Flags.Query (R22). -/
  qy : BitVec 1
  /-- Flags.Push (R22). -/
  pu : BitVec 1
  /-- DataType.Standard, 1 = standard (R23). -/
  std : BitVec 1
  /-- DataType.Type (R23). -/
  type : BitVec 3
  /-- DataType.BitsPerPixel, the value and not the wire code (R23). -/
  bpp : BitVec 8
  /-- SequenceNumber (R24). -/
  seq : BitVec 4
  /-- SourceOrDestinationID (R25). -/
  id : BitVec 8
  /-- DataOffset (R26). -/
  offset : BitVec 32
  /-- DataLength (R27). -/
  length : BitVec 16
  /-- Presence of the timecode (R28). -/
  tcv : BitVec 1
  /-- Timecode.Seconds (R28). -/
  sec : BitVec 16
  /-- Timecode.FractionalSeconds (R28). -/
  frac : BitVec 16
deriving DecidableEq, Repr

/-- Every port 0: the field set of an error response (R210), and of a port outside a transaction (log 2). -/
def Ports.zero : Ports :=
  { ver := 0, tc := 0, st := 0, rp := 0, qy := 0, pu := 0, std := 0, type := 0, bpp := 0, seq := 0, id := 0,
    offset := 0, length := 0, tcv := 0, sec := 0, frac := 0 }

/-- The closed taxonomy of errors (R200): results of a transaction, not machine faults (R222). -/
inductive DdpError where
  /-- Raised by `DEC` only (R201). -/
  | tooShort
  /-- Raised by `DEC` only (R202). -/
  | unknownSizeCode
  /-- Raised by `ENC` only (R203). -/
  | unsupportedBitsPerPixel
  /-- Raised by `ENC` only (R204). -/
  | missingTimecode
deriving DecidableEq, Repr

/-- A request (R42, R43, R99): `OP`, and ports shared by the two operations; `DEC` ignores `f` and `pay`, and `ENC`
ignores `wire` (R42, log 8). -/
structure Request where
  op : BitVec 1
  f : Ports
  pay : Bytes
  wire : Bytes
deriving DecidableEq, Repr

/-- A response (R42, R43): `ERR` (`none` is `OK`) with the results of the operation that answered. -/
inductive Response where
  | dec (err : Option DdpError) (f : Ports) (pay : Bytes)
  | enc (err : Option DdpError) (wire : Bytes)
deriving DecidableEq, Repr

/-- Why the machine stops. `DEC` and `ENC` never fault (R189, R222). -/
inductive Fault where
  /-- Raised by the loads and `SLICE` run outside their precondition: an index past the end of `WIRE`, where no byte
  exists (R14, R180, R181, R182, R186). Safe: the spec gives such a use no value. -/
  | outsideBuffer
  /-- Raised by the stores run outside their precondition, `len(W)` different from the index (R183, R184, R185,
  "require"). Safe: the spec gives such a use no effect. -/
  | putIndexNotLength
deriving DecidableEq, Repr

/-- Why the model gives no next state. -/
inductive Refusal where
  /-- An instruction whose meaning is not written; raised by no arm. Safe. -/
  | notModelled (mnemonic : String)
  /-- Raised by `step` on a request outside the bound of R58, which "is not a transaction". Safe. -/
  | requestNotAdmitted
deriving DecidableEq, Repr

structure State where
  /-- `MAX_WIRE`, the open parameter (R7, R58); no step writes it (log 4). -/
  maxWire : Option Nat
  /-- The requests the host has issued and the block has not yet performed, oldest first (R62). -/
  inbox : List Request
  /-- The responses delivered, oldest first; no rule reads them (R20). -/
  outbox : List Response
  /-- `OP` of the transaction in progress (R37). -/
  op : BitVec 1
  /-- `ERR` (R38); `none` is `OK`. -/
  err : Option DdpError
  /-- The field set `F` (R21). -/
  f : Ports
  /-- The payload `PAY` (R29). -/
  pay : Bytes
  /-- The wire frame `WIRE` (R30). -/
  wire : Bytes
  /-- The 8-bit result of `GET8` and of the packers (R162, R164, R168, R180; log 3). -/
  byteOut : BitVec 8
  /-- The 16-bit result of `GET16BE` (R181; log 3). -/
  halfOut : BitVec 16
  /-- The 32-bit result of `GET32BE` (R182; log 3). -/
  wordOut : BitVec 32
  /-- The raw size code `z` from `UNPACK_DTYPE` (R121 step 4, R165; log 3). -/
  sizeCode : BitVec 3
  /-- The result of `BPP2SIZE`, a size code or `none` (R141 step 2, R167; log 3). -/
  sizeOut : Option (BitVec 3)
  /-- The result of `SIZE2BPP`, a value or its failure (R166; log 3). -/
  bppOut : Option (BitVec 8)
  /-- `W`, the output under construction (R141; log 3). -/
  w : Bytes
deriving DecidableEq, Repr

/-- The machine right after reset: no request and no response (R44, R230). The spec gives the ports no value then;
the zeros are the model's (log 2, log 3), and so is the unbounded `MAX_WIRE` (log 4). -/
def State.reset : State :=
  { maxWire := none, inbox := [], outbox := [], op := 0, err := none, f := Ports.zero, pay := [], wire := [],
    byteOut := 0, halfOut := 0, wordOut := 0, sizeCode := 0, sizeOut := none, bppOut := none, w := [] }

end Sys2Proof.Machine
end

