-- ==== Sys2Proof/Machine/Ops.lean ====
section
/-! DEFINITION. The named operations: one write per field of the state, loads and stores on byte buffers (R180 to
R187), the error response (R210, the one operation that takes an error), delivering a response, taking a request and
ending a transaction, and the address view of a buffer. There is no return from an error (R211). -/

namespace Sys2Proof.Machine

/-! ## Writing one field -/

def State.setErr (s : State) (e : Option DdpError) : State := { s with err := e }
def State.setF (s : State) (f : Ports) : State := { s with f := f }
def State.setPay (s : State) (p : Bytes) : State := { s with pay := p }
def State.setWire (s : State) (p : Bytes) : State := { s with wire := p }
def State.setByteOut (s : State) (v : BitVec 8) : State := { s with byteOut := v }
def State.setHalfOut (s : State) (v : BitVec 16) : State := { s with halfOut := v }
def State.setWordOut (s : State) (v : BitVec 32) : State := { s with wordOut := v }
def State.setSizeCode (s : State) (v : BitVec 3) : State := { s with sizeCode := v }
def State.setSizeOut (s : State) (v : Option (BitVec 3)) : State := { s with sizeOut := v }
def State.setBppOut (s : State) (v : Option (BitVec 8)) : State := { s with bppOut := v }
def State.setW (s : State) (p : Bytes) : State := { s with w := p }

/-! ## Groups of ports -/

/-- The ports of byte 0 (R82, R121 step 2). -/
def Ports.setFlags (f : Ports) (x : BitVec 2 × BitVec 1 × BitVec 1 × BitVec 1 × BitVec 1 × BitVec 1) : Ports :=
  { f with ver := x.1, tc := x.2.1, st := x.2.2.1, rp := x.2.2.2.1, qy := x.2.2.2.2.1, pu := x.2.2.2.2.2 }

/-- The optional timecode the three ports `TCV`, `SEC`, `FRAC` stand for (R28). -/
def Ports.timecode (f : Ports) : Option (BitVec 16 × BitVec 16) :=
  if f.tcv = 1#1 then some (f.sec, f.frac) else none

/-! ## Loads and stores on buffers

`GET` at an index with no byte takes 0 (R189 allows a total definition); `DEC` never does so, and the instructions
that load check first and fault. -/

/-- `s[i]` (R14). -/
def byteAt (s : Bytes) (i : Nat) : Byte := s.getD i 0

/-- `GET8(s, i)` (R180); `put8` of it is that byte (R190). -/
def get8 (s : Bytes) (i : Nat) : BitVec 8 := byteAt s i

/-- `GET16BE(s, i)` (R181); `put16be` of it is those two bytes (R190). -/
def get16be (s : Bytes) (i : Nat) : BitVec 16 := be16 (byteAt s i) (byteAt s (i + 1))

/-- `GET32BE(s, i)` (R182); `put32be` of it is those four bytes (R190). -/
def get32be (s : Bytes) (i : Nat) : BitVec 32 :=
  be32 (byteAt s i) (byteAt s (i + 1)) (byteAt s (i + 2)) (byteAt s (i + 3))

/-- `PUT8(W, i, v)` with `len(W) = i` (R183); `get8` reads it back (R190). -/
def put8 (w : Bytes) (_i : Nat) (v : BitVec 8) : Bytes := w ++ [v]

/-- `PUT16BE(W, i, v)` with `len(W) = i` (R184); `get16be` reads it back (R190). -/
def put16be (w : Bytes) (_i : Nat) (v : BitVec 16) : Bytes := w ++ bytes16 v

/-- `PUT32BE(W, i, v)` with `len(W) = i` (R185); `get32be` reads it back (R190). -/
def put32be (w : Bytes) (_i : Nat) (v : BitVec 32) : Bytes := w ++ bytes32 v

/-- `SLICE(s, h)` (R186); at `len(W)` it gives back what `append` added (R191). -/
def slice (s : Bytes) (h : Nat) : Bytes := s.drop h

/-- `APPEND(W, p)` (R187); it joins the first bytes of a frame and their `slice` again (R191). -/
def append (w p : Bytes) : Bytes := w ++ p

/-- Run `k` when the `n` bytes at index `i` of `WIRE` exist (R180 to R182, R186); an address with no byte faults. -/
def inWire (s : State) (i n : Nat) (k : State) : Host.Outcome State Fault Refusal :=
  if i + n ≤ s.wire.length then .next k else .fault .outsideBuffer

/-- Run `k` when the store is at the end of `W` (R183 to R185, "require len(W) = i"). -/
def atEndOfW (s : State) (i : Nat) (k : State) : Host.Outcome State Fault Refusal :=
  if s.w.length = i then .next k else .fault .putIndexNotLength

/-! ## Errors and responses -/

/-- The numeric code of `ERR` (R9, R38). -/
def errCode : Option DdpError → BitVec 3
  | none => 0
  | some .tooShort => 1
  | some .unknownSizeCode => 2
  | some .unsupportedBitsPerPixel => 3
  | some .missingTimecode => 4

/-- Whether `DEC` is the operation that raises the error (R201, R202), and not `ENC` (R203, R204). -/
def DdpError.ofDec : DdpError → Bool
  | .tooShort | .unknownSizeCode => true
  | .unsupportedBitsPerPixel | .missingTimecode => false

/-- `raise E` (R14): the error response of R210 (log 18), `ERR` the code of `E` and the results of the operation that raises
it zero or empty. Nothing is saved, no mode changes, no handler runs. -/
def State.raise (s : State) (e : DdpError) : State :=
  if e.ofDec then ((s.setErr (some e)).setF Ports.zero).setPay [] else (s.setErr (some e)).setWire []

/-- Respond with (`ERR`, `F`, `PAY`) (R42, R121 step 12). -/
def State.respondDec (s : State) : State := { s with outbox := s.outbox ++ [.dec s.err s.f s.pay] }

/-- Respond with (`ERR`, `WIRE`) (R43, R141 step 8). -/
def State.respondEnc (s : State) : State := { s with outbox := s.outbox ++ [.enc s.err s.wire] }

/-! ## Requests -/

/-- The header length a packet is encoded with (R43, R58): 14 when `TC` is 1, else 10. -/
def Ports.headerLen (f : Ports) : Nat := if f.tc = 1#1 then Config.hdrTc else Config.hdrMin

/-- `n` bytes fit in a frame (R58). -/
def fits (maxWire : Option Nat) (n : Nat) : Bool :=
  match maxWire with
  | none => true
  | some m => n ≤ m

/-- Admission (R58): a `DEC` request by the length of `WIRE`, an `ENC` request by the length of the frame it makes. -/
def admitted (maxWire : Option Nat) (r : Request) : Bool :=
  if r.op = 0#1 then fits maxWire r.wire.length else fits maxWire (r.f.headerLen + r.pay.length)

/-- The request is sampled as one value at the start of the transaction (R59): its fields reach the ports, and it
leaves the queue. -/
def State.accept (s : State) (r : Request) (rest : List Request) : State :=
  { s with inbox := rest, op := r.op, f := r.f, pay := r.pay, wire := r.wire }

/-- The end of a transaction: the ports exist only within it (R34), and nothing is left (R20, R211; log 2). -/
def State.release (s : State) : State :=
  { s with op := 0, err := none, f := Ports.zero, pay := [], wire := [] }

/-! ## The address view of a buffer

A buffer is a finite sequence (R29, R30), so its address space is its positions: the list IS the canonical form
(log 20). The
view below lists it as address and byte, for claims that speak of addresses. -/

/-- The cells of a buffer from address `a` on. -/
def cellsFrom (a : Nat) : Bytes → List Host.Cell
  | [] => []
  | b :: bs => (a, b) :: cellsFrom (a + 1) bs

/-- A buffer as cells, address 0 first (R50, R51). -/
def cells (b : Bytes) : List Host.Cell := cellsFrom 0 b

/-- The canonical form of memory as cells: addresses strictly rising. An unlisted address reads as nothing. -/
def Memory.wf : List Host.Cell → Bool
  | [] => true
  | [_] => true
  | c :: d :: rest => decide (c.1 < d.1) && Memory.wf (d :: rest)

/-- The byte at an address, or nothing where the buffer has none. -/
def byteAt? (b : Bytes) (i : Nat) : Option Byte := b[i]?

/-! ## Sequencing -/

/-- Go on with the next state, or stop where the first part stopped. -/
def andThen (o : Host.Outcome State Fault Refusal) (k : State → Host.Outcome State Fault Refusal) :
    Host.Outcome State Fault Refusal :=
  match o with
  | .next s => k s
  | .fault r => .fault r
  | .refused r => .refused r

end Sys2Proof.Machine
end

