-- ==== Sys2Proof/Machine/Codec.lean ====
section
/-! DEFINITION. The two host operations: `DEC` (R121) and `ENC` (R141), as functions over byte sequences and packets
whose error is a sum type (R210), and as meanings that answer through the ports. -/

namespace Sys2Proof.Machine

/-- The ports of a frame's bytes 0 to 9 with bits per pixel `bpp`, no timecode (R121 steps 2 to 9; R90;
log 19). -/
def headerPorts (wire : Bytes) (bpp : BitVec 8) : Ports :=
  let fl := unpackFlags (get8 wire 0)
  let dt := unpackDtype (get8 wire 2)
  { ver := fl.1, tc := fl.2.1, st := fl.2.2.1, rp := fl.2.2.2.1, qy := fl.2.2.2.2.1, pu := fl.2.2.2.2.2,
    std := dt.1, type := dt.2.1, bpp := bpp, seq := unpackSeq (get8 wire 1), id := get8 wire 3,
    offset := get32be wire 4, length := get16be wire 8, tcv := 0, sec := 0, frac := 0 }

/-- The algorithm of `DEC` (R121), its checks in R121's order (log 14). -/
def decFrame (wire : Bytes) : Except DdpError (Ports × Bytes) :=
  if wire.length < Config.hdrMin then .error .tooShort
  else
    match size2bpp (unpackDtype (get8 wire 2)).2.2 with
    | none => .error .unknownSizeCode
    | some bpp =>
      let f := headerPorts wire bpp
      if f.tc = 1#1 then
        if wire.length < Config.hdrTc then .error .tooShort
        else .ok ({ f with tcv := 1, sec := get16be wire 10, frac := get16be wire 12 }, slice wire Config.hdrTc)
      else .ok (f, slice wire Config.hdrMin)

/-- Bytes 0 to 9 of a frame (R141 steps 1, 4, 5; R146) with the size code `z`. -/
def headerBytes (f : Ports) (z : BitVec 3) : Bytes :=
  let w := put8 [] 0 (packFlags f.ver f.tc f.st f.rp f.qy f.pu)
  let w := put8 w 1 (packSeq f.seq)
  let w := put8 w 2 (packDtype f.std f.type z)
  let w := put8 w 3 f.id
  let w := put32be w 4 f.offset
  put16be w 8 f.length

/-- The algorithm of `ENC` (R141), its checks in R141's order (log 14). A timecode supplied with `TC` = 0 is not
emitted (R144; log 16). -/
def encPacket (f : Ports) (pay : Bytes) : Except DdpError Bytes :=
  match bpp2size f.bpp with
  | none => .error .unsupportedBitsPerPixel
  | some z =>
    let w := headerBytes f z
    if f.tc = 1#1 then
      if f.tcv = 0#1 then .error .missingTimecode
      else .ok (append (put16be (put16be w 10 f.sec) 12 f.frac) pay)
    else .ok (append w pay)

/-- `DEC` (R120): decode `WIRE`, answer with `ERR`, `F`, `PAY`; `WIRE` is not modified (R59). -/
def execDec (s : State) : Host.Outcome State Fault Refusal :=
  match decFrame s.wire with
  | .ok (f, pay) => .next (((s.setErr none).setF f).setPay pay).respondDec
  | .error e => .next (s.raise e).respondDec

/-- `ENC` (R140): encode `F` and `PAY`, answer with `ERR`, `WIRE`; `F` and `PAY` are not modified (R59). -/
def execEnc (s : State) : Host.Outcome State Fault Refusal :=
  match encPacket s.f s.pay with
  | .ok wire => .next ((s.setErr none).setWire wire).respondEnc
  | .error e => .next (s.raise e).respondEnc

end Sys2Proof.Machine
end

