-- ==== Sys2Proof/Machine/Marshaller.lean ====
section
/-! DEFINITION. The eight micro-operations of the bit-field marshaller (R161 to R168). Each is a pure function of its
operands (R169); its result reaches the ports R121 assigns it to, or the field that holds a result of its width. None
fails: the failures of the two table readings are values (R166, R167). -/

namespace Sys2Proof.Machine

/-- `UNPACK_FLAGS(b)` (R161): `VER`, `TC`, `ST`, `RP`, `QY`, `PU`. -/
def execUnpackFlags (b : Byte) (s : State) : Host.Outcome State Fault Refusal :=
  .next (s.setF (s.f.setFlags (unpackFlags b)))

/-- `PACK_FLAGS` (R162): the byte. -/
def execPackFlags (ver : BitVec 2) (tc st rp qy pu : BitVec 1) (s : State) : Host.Outcome State Fault Refusal :=
  .next (s.setByteOut (packFlags ver tc st rp qy pu))

/-- `UNPACK_SEQ(b)` (R163): `SEQ`. -/
def execUnpackSeq (b : Byte) (s : State) : Host.Outcome State Fault Refusal :=
  .next (s.setF { s.f with seq := unpackSeq b })

/-- `PACK_SEQ(SEQ)` (R164): the byte. -/
def execPackSeq (seq : BitVec 4) (s : State) : Host.Outcome State Fault Refusal :=
  .next (s.setByteOut (packSeq seq))

/-- `UNPACK_DTYPE(b)` (R165): `STD`, `TYPE`, and the raw size code. -/
def execUnpackDtype (b : Byte) (s : State) : Host.Outcome State Fault Refusal :=
  .next ((s.setF { s.f with std := (unpackDtype b).1, type := (unpackDtype b).2.1 }).setSizeCode (unpackDtype b).2.2)

/-- `SIZE2BPP(z)` (R166): the value, or its failure, which `DEC` turns into `UnknownSizeCode`. -/
def execSize2bpp (z : BitVec 3) (s : State) : Host.Outcome State Fault Refusal :=
  .next (s.setBppOut (size2bpp z))

/-- `BPP2SIZE(v)` (R167): the size code, or `none`, which `ENC` turns into `UnsupportedBitsPerPixel`. -/
def execBpp2size (v : BitVec 8) (s : State) : Host.Outcome State Fault Refusal :=
  .next (s.setSizeOut (bpp2size v))

/-- `PACK_DTYPE(STD, TYPE, z)` (R168): the byte. -/
def execPackDtype (std : BitVec 1) (type : BitVec 3) (z : BitVec 3) (s : State) : Host.Outcome State Fault Refusal :=
  .next (s.setByteOut (packDtype std type z))

end Sys2Proof.Machine
end

