-- ==== Sys2Proof/Machine/Serializer.lean ====
section
/-! DEFINITION. The eight micro-operations of the serializer (R180 to R187). Loads and `SLICE` read `WIRE`, stores
extend `W`, `APPEND` makes `WIRE` of `W` and `PAY`. Run outside its precondition a load or store faults (log 9). -/

namespace Sys2Proof.Machine

/-- `GET8(WIRE, i)` (R180). -/
def execGet8 (i : Nat) (s : State) : Host.Outcome State Fault Refusal :=
  inWire s i 1 (s.setByteOut (get8 s.wire i))

/-- `GET16BE(WIRE, i)` (R181). -/
def execGet16be (i : Nat) (s : State) : Host.Outcome State Fault Refusal :=
  inWire s i 2 (s.setHalfOut (get16be s.wire i))

/-- `GET32BE(WIRE, i)` (R182). -/
def execGet32be (i : Nat) (s : State) : Host.Outcome State Fault Refusal :=
  inWire s i 4 (s.setWordOut (get32be s.wire i))

/-- `PUT8(W, i, v)` (R183). -/
def execPut8 (i : Nat) (v : BitVec 8) (s : State) : Host.Outcome State Fault Refusal :=
  atEndOfW s i (s.setW (put8 s.w i v))

/-- `PUT16BE(W, i, v)` (R184). -/
def execPut16be (i : Nat) (v : BitVec 16) (s : State) : Host.Outcome State Fault Refusal :=
  atEndOfW s i (s.setW (put16be s.w i v))

/-- `PUT32BE(W, i, v)` (R185). -/
def execPut32be (i : Nat) (v : BitVec 32) (s : State) : Host.Outcome State Fault Refusal :=
  atEndOfW s i (s.setW (put32be s.w i v))

/-- `SLICE(WIRE, h)` (R186): the payload. -/
def execSlice (h : Nat) (s : State) : Host.Outcome State Fault Refusal :=
  inWire s h 0 (s.setPay (slice s.wire h))

/-- `APPEND(W, PAY)` (R187): the frame. -/
def execAppend (s : State) : Host.Outcome State Fault Refusal :=
  .next (s.setWire (append s.w s.pay))

end Sys2Proof.Machine
end

