-- ==== Sys2Proof/Machine/Status.lean ====
section
/-! DEFINITION. The values of `ERR` (R9, R38): `OK` is success (R121 step 12, R141 step 8), each other value is the
error response of R210 (log 11, log 18). -/

namespace Sys2Proof.Machine

/-- `ERR` = 0, `OK`: the results stand. -/
def execErrOk (s : State) : Host.Outcome State Fault Refusal := .next (s.setErr none)

/-- `ERR` = 1, `TooShort` (R201). -/
def execErrTooShort (s : State) : Host.Outcome State Fault Refusal := .next (s.raise .tooShort)

/-- `ERR` = 2, `UnknownSizeCode` (R202). -/
def execErrUnknownSizeCode (s : State) : Host.Outcome State Fault Refusal := .next (s.raise .unknownSizeCode)

/-- `ERR` = 3, `UnsupportedBitsPerPixel` (R203). -/
def execErrUnsupportedBitsPerPixel (s : State) : Host.Outcome State Fault Refusal :=
  .next (s.raise .unsupportedBitsPerPixel)

/-- `ERR` = 4, `MissingTimecode` (R204). -/
def execErrMissingTimecode (s : State) : Host.Outcome State Fault Refusal := .next (s.raise .missingTimecode)

end Sys2Proof.Machine
end

