-- ==== Sys2Proof/Machine/Wire.lean ====
section
/-! DEFINITION. The rows of the wire frame (R82 to R89) and of the size codes (R92, R202). A row's meaning is the
assembly of the ports from its bits (R90); reserved bits are ignored (R93). The rows are encodings and not operations
of the host (log 6, log 10, log 11). -/

namespace Sys2Proof.Machine

/-- Byte 2 of a frame (R84, R125): `STD`, `TYPE`, `BPP` through the table; size code 7 raises `UnknownSizeCode`. -/
def dataTypeByte (b : Byte) (s : State) : State :=
  match size2bpp (unpackDtype b).2.2 with
  | some bpp => s.setF { s.f with std := (unpackDtype b).1, type := (unpackDtype b).2.1, bpp := bpp }
  | none => s.raise .unknownSizeCode

/-- Byte 0 (R82): the flags. -/
def execWireByte0 (b : Byte) (s : State) : Host.Outcome State Fault Refusal :=
  .next (s.setF (s.f.setFlags (unpackFlags b)))

/-- Byte 1 (R83): `SEQ` from the low nibble. -/
def execWireByte1 (b : Byte) (s : State) : Host.Outcome State Fault Refusal :=
  .next (s.setF { s.f with seq := unpackSeq b })

/-- Byte 2 (R84). -/
def execWireByte2 (b : Byte) (s : State) : Host.Outcome State Fault Refusal :=
  .next (dataTypeByte b s)

/-- Byte 3 (R85): `ID`. -/
def execWireByte3 (id : BitVec 8) (s : State) : Host.Outcome State Fault Refusal :=
  .next (s.setF { s.f with id := id })

/-- Bytes 4 to 7 (R86): `OFFSET`. -/
def execWireBytes4to7 (offset : BitVec 32) (s : State) : Host.Outcome State Fault Refusal :=
  .next (s.setF { s.f with offset := offset })

/-- Bytes 8 to 9 (R87): `LENGTH`. -/
def execWireBytes8to9 (length : BitVec 16) (s : State) : Host.Outcome State Fault Refusal :=
  .next (s.setF { s.f with length := length })

/-- Bytes 10 to 13 (R88): with the timecode flag set, the timecode, present (R90 `TCV`, R127); with it clear, the
timecode is absent and they are payload bytes. -/
def execWireBytes10to13 (sec frac : BitVec 16) (s : State) : Host.Outcome State Fault Refusal :=
  if s.f.tc = 1#1 then .next (s.setF { s.f with tcv := 1, sec := sec, frac := frac })
  else .next ((s.setF { s.f with tcv := 0, sec := 0, frac := 0 }).setPay (s.pay ++ (bytes16 sec ++ bytes16 frac)))

/-- Payload bytes (R89): in order, uninterpreted. -/
def execWirePayload (p : Bytes) (s : State) : Host.Outcome State Fault Refusal :=
  .next (s.setPay (s.pay ++ p))

/-! The size codes: byte 2 with each code (R92). -/

/-- Size code 0: 0 bits per pixel. -/
def execSizeCode0 (n x : BitVec 1) (t : BitVec 3) (s : State) : Host.Outcome State Fault Refusal :=
  .next (dataTypeByte (dtypeByte n x t 0) s)

/-- Size code 1: 1 bit per pixel. -/
def execSizeCode1 (n x : BitVec 1) (t : BitVec 3) (s : State) : Host.Outcome State Fault Refusal :=
  .next (dataTypeByte (dtypeByte n x t 1) s)

/-- Size code 2: 4 bits per pixel. -/
def execSizeCode2 (n x : BitVec 1) (t : BitVec 3) (s : State) : Host.Outcome State Fault Refusal :=
  .next (dataTypeByte (dtypeByte n x t 2) s)

/-- Size code 3: 8 bits per pixel. -/
def execSizeCode3 (n x : BitVec 1) (t : BitVec 3) (s : State) : Host.Outcome State Fault Refusal :=
  .next (dataTypeByte (dtypeByte n x t 3) s)

/-- Size code 4: 16 bits per pixel. -/
def execSizeCode4 (n x : BitVec 1) (t : BitVec 3) (s : State) : Host.Outcome State Fault Refusal :=
  .next (dataTypeByte (dtypeByte n x t 4) s)

/-- Size code 5: 24 bits per pixel. -/
def execSizeCode5 (n x : BitVec 1) (t : BitVec 3) (s : State) : Host.Outcome State Fault Refusal :=
  .next (dataTypeByte (dtypeByte n x t 5) s)

/-- Size code 6: 32 bits per pixel. -/
def execSizeCode6 (n x : BitVec 1) (t : BitVec 3) (s : State) : Host.Outcome State Fault Refusal :=
  .next (dataTypeByte (dtypeByte n x t 6) s)

/-- Size code 7: invalid, the error `UnknownSizeCode` (R202). -/
def execSizeCode7 (n x : BitVec 1) (t : BitVec 3) (s : State) : Host.Outcome State Fault Refusal :=
  .next (dataTypeByte (dtypeByte n x t 7) s)

end Sys2Proof.Machine
end

