-- ==== Sys2Proof/Machine/Dispatch.lean ====
section
/-! DEFINITION. The meaning of every instruction: one arm per constructor, one direct call. -/

namespace Sys2Proof.Machine

def exec (i : Instr) (s : State) : Host.Outcome State Fault Refusal :=
  match i with
  | .dec => Sys2Proof.Machine.execDec s
  | .enc => Sys2Proof.Machine.execEnc s
  | .unpackFlags b => Sys2Proof.Machine.execUnpackFlags b s
  | .packFlags ver tc st rp qy pu => Sys2Proof.Machine.execPackFlags ver tc st rp qy pu s
  | .unpackSeq b => Sys2Proof.Machine.execUnpackSeq b s
  | .packSeq seq => Sys2Proof.Machine.execPackSeq seq s
  | .unpackDtype b => Sys2Proof.Machine.execUnpackDtype b s
  | .size2bpp z => Sys2Proof.Machine.execSize2bpp z s
  | .bpp2size v => Sys2Proof.Machine.execBpp2size v s
  | .packDtype std type z => Sys2Proof.Machine.execPackDtype std type z s
  | .get8 k => Sys2Proof.Machine.execGet8 k s
  | .get16be k => Sys2Proof.Machine.execGet16be k s
  | .get32be k => Sys2Proof.Machine.execGet32be k s
  | .put8 k v => Sys2Proof.Machine.execPut8 k v s
  | .put16be k v => Sys2Proof.Machine.execPut16be k v s
  | .put32be k v => Sys2Proof.Machine.execPut32be k v s
  | .slice h => Sys2Proof.Machine.execSlice h s
  | .append => Sys2Proof.Machine.execAppend s
  | .wireByte0 b => Sys2Proof.Machine.execWireByte0 b s
  | .wireByte1 b => Sys2Proof.Machine.execWireByte1 b s
  | .wireByte2 b => Sys2Proof.Machine.execWireByte2 b s
  | .wireByte3 id => Sys2Proof.Machine.execWireByte3 id s
  | .wireBytes4to7 offset => Sys2Proof.Machine.execWireBytes4to7 offset s
  | .wireBytes8to9 length => Sys2Proof.Machine.execWireBytes8to9 length s
  | .wireBytes10to13 sec frac => Sys2Proof.Machine.execWireBytes10to13 sec frac s
  | .wirePayload p => Sys2Proof.Machine.execWirePayload p s
  | .sizeCode0 n x t => Sys2Proof.Machine.execSizeCode0 n x t s
  | .sizeCode1 n x t => Sys2Proof.Machine.execSizeCode1 n x t s
  | .sizeCode2 n x t => Sys2Proof.Machine.execSizeCode2 n x t s
  | .sizeCode3 n x t => Sys2Proof.Machine.execSizeCode3 n x t s
  | .sizeCode4 n x t => Sys2Proof.Machine.execSizeCode4 n x t s
  | .sizeCode5 n x t => Sys2Proof.Machine.execSizeCode5 n x t s
  | .sizeCode6 n x t => Sys2Proof.Machine.execSizeCode6 n x t s
  | .sizeCode7 n x t => Sys2Proof.Machine.execSizeCode7 n x t s
  | .errOk => Sys2Proof.Machine.execErrOk s
  | .errTooShort => Sys2Proof.Machine.execErrTooShort s
  | .errUnknownSizeCode => Sys2Proof.Machine.execErrUnknownSizeCode s
  | .errUnsupportedBitsPerPixel => Sys2Proof.Machine.execErrUnsupportedBitsPerPixel s
  | .errMissingTimecode => Sys2Proof.Machine.execErrMissingTimecode s

end Sys2Proof.Machine
end

