-- ==== Sys2Proof/Machine/Transaction.lean ====
section
/-! DEFINITION. One whole transaction, the step of the codec (R10, R59): take the oldest request, run the operation its
`OP` selects, answer, and keep nothing (R20). -/

namespace Sys2Proof.Machine

/-- What the block does with a request already admitted: sample it, run the operation `OP` selects, end the
transaction. -/
def transact (s : State) (r : Request) (rest : List Request) : Host.Outcome State Fault Refusal :=
  andThen (exec (decodeOp (s.accept r rest).op) (s.accept r rest)) (fun t => .next t.release)

/-- With a request pending, its transaction, if R58 admits it. With none the block waits (log 5). -/
def nextTransaction (s : State) : Host.Outcome State Fault Refusal :=
  match s.inbox with
  | [] => .next s
  | r :: rest => if admitted s.maxWire r then transact s r rest else .refused .requestNotAdmitted

/-- The request with operation bit `op` and every operand zero or empty. -/
def bareRequest (op : BitVec 1) : Request := { op := op, f := Ports.zero, pay := [], wire := [] }

end Sys2Proof.Machine
end

