-- ==== Sys2Proof/Machine/Step.lean ====
section
/-! DEFINITION. The step of the machine, and how the host places a command to be run next. -/

namespace Sys2Proof.Machine

/-- One step is one whole transaction (R10). -/
def step (s : State) : Host.Outcome State Fault Refusal := nextTransaction s

/-- `s` with the command word `w` presented as the next request (log 7): `OP` is bit 0 of the word, the operands are
zero and empty. A word that is no command leaves `s` as it is. -/
def State.withFetchWord (s : State) (nbits w : Nat) : State :=
  match decodeTableWord nbits w with
  | none => s
  | some _ => { s with inbox := bareRequest (BitVec.ofNat 1 w) :: s.inbox }

end Sys2Proof.Machine
end

