-- ==== Sys2Proof/Machine/Inverse.lean ====
section
/-! DEFINITION. The inverse laws that the spec states as rules of their own (R170, R190, R191), as propositions over the
operations; the round trips R150 and R151 rest on them. Laws/Inverse.lean proves that the operations obey them. -/

namespace Sys2Proof.Machine

/-- R170, its equations in its order: unpacking what was packed gives the operands back, the two table readings undo each
other (`z` in 0 to 6, `v` in `BPP_SET`), and packing what was unpacked clears the reserved bits. -/
def marshallerInverseLaws : Prop :=
  (∀ ver tc st rp qy pu, unpackFlags (packFlags ver tc st rp qy pu) = (ver, tc, st, rp, qy, pu)) ∧
  (∀ s, unpackSeq (packSeq s) = s) ∧
  (∀ d t z, unpackDtype (packDtype d t z) = (d, t, z)) ∧
  (∀ z, z ≠ 7 → (size2bpp z).bind bpp2size = some z) ∧
  (∀ v ∈ [0#8, 1#8, 4#8, 8#8, 16#8, 24#8, 32#8], (bpp2size v).bind size2bpp = some v) ∧
  (∀ b, (match unpackFlags b with | (ver, tc, st, rp, qy, pu) => packFlags ver tc st rp qy pu) = b &&& 0xDF#8) ∧
  (∀ b, packSeq (unpackSeq b) = b &&& 0x0F#8) ∧
  (∀ b, (match unpackDtype b with | (d, t, z) => packDtype d t z) = b &&& 0xBF#8)

/-- R190, store then load: for `len(W) = i` and any continuation `t` the load at `i` gives the value stored, and a load at
an index below `i` is unchanged by the store. -/
def storeLoadLaws : Prop :=
  ∀ (w t : Bytes) (i : Nat), w.length = i →
    (∀ v, get8 (put8 w i v ++ t) i = v) ∧ (∀ v, get16be (put16be w i v ++ t) i = v) ∧
    (∀ v, get32be (put32be w i v ++ t) i = v) ∧
    ∀ j, j < i → (∀ v, get8 (put8 w i v ++ t) j = get8 w j) ∧ (∀ v, get8 (put16be w i v ++ t) j = get8 w j) ∧
      ∀ v, get8 (put32be w i v ++ t) j = get8 w j

/-- R190, load then store: for `i + n <= len(s)` the bytes that the store of a load adds are `s[i]` to `s[i+n-1]`. -/
def loadStoreLaws : Prop :=
  ∀ (w s : Bytes) (i : Nat),
    (i + 1 ≤ s.length → put8 w i (get8 s i) = w ++ (s.drop i).take 1) ∧
    (i + 2 ≤ s.length → put16be w i (get16be s i) = w ++ (s.drop i).take 2) ∧
    (i + 4 ≤ s.length → put32be w i (get32be s i) = w ++ (s.drop i).take 4)

/-- R191: `SLICE` at `len(W)` gives back what `APPEND` added, and `APPEND` joins the first `h` bytes and the slice. -/
def sliceAppendLaws : Prop :=
  (∀ w p, slice (append w p) w.length = p) ∧
  (∀ (s : Bytes) (h : Nat), h ≤ s.length → append (s.take h) (slice s h) = s)

end Sys2Proof.Machine
end

