-- ==== Sys2Proof/Machine/Sequence.lean ====
section
/-! DEFINITION. R121 and R141 once more, as what they are in the hardware's four parts: sequences of micro-operations,
each run by `exec` and each taking its operands from the ports and results of those before it. `DEC` and `ENC` are
defined in Codec.lean; that these sequences give the same answers is a claim, and with it that no micro-operation
faults inside them (R189). `F.NAME <- v` is the assignment of R14. -/

namespace Sys2Proof.Machine

/-- Steps 2 to 6 of R121: bytes 0 to 2. -/
def decPackedBytes (s : State) (k : State → Host.Outcome State Fault Refusal) : Host.Outcome State Fault Refusal :=
  andThen (exec (.get8 0) s) fun s =>
  andThen (exec (.unpackFlags s.byteOut) s) fun s =>
  andThen (exec (.get8 1) s) fun s =>
  andThen (exec (.unpackSeq s.byteOut) s) fun s =>
  andThen (exec (.get8 2) s) fun s =>
  andThen (exec (.unpackDtype s.byteOut) s) fun s =>
  andThen (exec (.size2bpp s.sizeCode) s) fun s =>
  match s.bppOut with
  | none => andThen (exec .errUnknownSizeCode s) fun s => .next s.respondDec
  | some bpp => k (s.setF { s.f with bpp := bpp })

/-- Steps 7 to 9 of R121: bytes 3 to 9. -/
def decWholeFields (s : State) (k : State → Host.Outcome State Fault Refusal) : Host.Outcome State Fault Refusal :=
  andThen (exec (.get8 3) s) fun s =>
  andThen (exec (.get32be 4) (s.setF { s.f with id := s.byteOut })) fun s =>
  andThen (exec (.get16be 8) (s.setF { s.f with offset := s.wordOut })) fun s =>
  k (s.setF { s.f with length := s.halfOut })

/-- Steps 10 to 12 of R121: the timecode, the payload, the response. -/
def decTail (s : State) : Host.Outcome State Fault Refusal :=
  if s.f.tc = 1#1 then
    if s.wire.length < 14 then andThen (exec .errTooShort s) fun s => .next s.respondDec
    else
      andThen (exec (.get16be 10) (s.setF { s.f with tcv := 1 })) fun s =>
      andThen (exec (.get16be 12) (s.setF { s.f with sec := s.halfOut })) fun s =>
      andThen (exec (.slice 14) (s.setF { s.f with frac := s.halfOut })) fun s =>
      andThen (exec .errOk s) fun s => .next s.respondDec
  else
    andThen (exec (.slice 10) (s.setF { s.f with tcv := 0, sec := 0, frac := 0 })) fun s =>
    andThen (exec .errOk s) fun s => .next s.respondDec

/-- `DEC` as the sequence of its micro-operations (R121). -/
def decSequence (s : State) : Host.Outcome State Fault Refusal :=
  if s.wire.length < 10 then andThen (exec .errTooShort s) fun s => .next s.respondDec
  else decPackedBytes s fun s => decWholeFields s decTail

/-- Steps 1 to 4 of R141: the flags byte and the data-type byte, handed on with the state. -/
def encPackedBytes (s : State) (k : Byte → Byte → State → Host.Outcome State Fault Refusal) :
    Host.Outcome State Fault Refusal :=
  andThen (exec (.packFlags s.f.ver s.f.tc s.f.st s.f.rp s.f.qy s.f.pu) s) fun s1 =>
  andThen (exec (.bpp2size s1.f.bpp) s1) fun s2 =>
  match s2.sizeOut with
  | none => andThen (exec .errUnsupportedBitsPerPixel s2) fun s => .next s.respondEnc
  | some z => andThen (exec (.packDtype s2.f.std s2.f.type z) s2) fun s3 => k s1.byteOut s3.byteOut s3

/-- Step 5 of R141: bytes 0 to 9. -/
def encHeader (b0 b2 : Byte) (s : State) (k : State → Host.Outcome State Fault Refusal) :
    Host.Outcome State Fault Refusal :=
  andThen (exec (.put8 0 b0) (s.setW [])) fun s =>
  andThen (exec (.packSeq s.f.seq) s) fun s =>
  andThen (exec (.put8 1 s.byteOut) s) fun s =>
  andThen (exec (.put8 2 b2) s) fun s =>
  andThen (exec (.put8 3 s.f.id) s) fun s =>
  andThen (exec (.put32be 4 s.f.offset) s) fun s =>
  andThen (exec (.put16be 8 s.f.length) s) k

/-- Steps 6 to 8 of R141: the timecode, the payload, the response. -/
def encTail (s : State) : Host.Outcome State Fault Refusal :=
  if s.f.tc = 1#1 then
    if s.f.tcv = 0#1 then andThen (exec .errMissingTimecode s) fun s => .next s.respondEnc
    else
      andThen (exec (.put16be 10 s.f.sec) s) fun s =>
      andThen (exec (.put16be 12 s.f.frac) s) fun s =>
      andThen (exec .append s) fun s =>
      andThen (exec .errOk s) fun s => .next s.respondEnc
  else
    andThen (exec .append s) fun s =>
    andThen (exec .errOk s) fun s => .next s.respondEnc

/-- `ENC` as the sequence of its micro-operations (R141). -/
def encSequence (s : State) : Host.Outcome State Fault Refusal :=
  encPackedBytes s fun b0 b2 s => encHeader b0 b2 s encTail

/-- The frame read in parts, left to right, each part by its wire row (R82 to R89): bytes 10 to 13 as such when they
exist, the rest as payload. -/
def wireSequence (wire : Bytes) (s : State) : Host.Outcome State Fault Refusal :=
  andThen (exec (.wireByte0 (get8 wire 0)) s) fun s =>
  andThen (exec (.wireByte1 (get8 wire 1)) s) fun s =>
  andThen (exec (.wireByte2 (get8 wire 2)) s) fun s =>
  andThen (exec (.wireByte3 (get8 wire 3)) s) fun s =>
  andThen (exec (.wireBytes4to7 (get32be wire 4)) s) fun s =>
  andThen (exec (.wireBytes8to9 (get16be wire 8)) s) fun s =>
  if wire.length < 14 then exec (.wirePayload (slice wire 10)) s
  else andThen (exec (.wireBytes10to13 (get16be wire 10) (get16be wire 12)) s) fun s =>
    exec (.wirePayload (slice wire 14)) s

end Sys2Proof.Machine
end

