-- ==== Sys2Proof/Safety.lean ====
section
/-! DEFINITION. What claims mean by a legal packet, a legal or canonical frame, a legal response, and a well-kept state
(R31, R32, R94, R98, R134, R152, R210), and which requests and runs are safe (R58, R189, R222). -/

namespace Sys2Proof.Machine

/-- `BPP_SET` (R6, R23). -/
def bppSet : List (BitVec 8) := [0, 1, 4, 8, 16, 24, 32]

/-- A packet `ENC` accepts and `DEC` gives back (R150): bits per pixel legal, timecode present iff flagged. -/
def Ports.valid (f : Ports) : Bool := bppSet.contains f.bpp && f.tcv == f.tc

/-- A legal frame (R94): long enough for its timecode flag, and a size code other than 7. -/
def legalFrame (w : Bytes) : Bool :=
  decide (10 ≤ w.length) && ((byteAt w 0 &&& 0x10#8 == 0) || decide (14 ≤ w.length)) && (byteAt w 2 &&& 7#8 != 7)

/-- A frame with its six reserved bits cleared (R98, R151). -/
def clearReserved : Bytes → Bytes
  | b0 :: b1 :: b2 :: rest => (b0 &&& 0xDF#8) :: (b1 &&& 0x0F#8) :: (b2 &&& 0xBF#8) :: rest
  | w => w

/-- A canonical frame (R98): legal, its six reserved bits 0. -/
def canonicalFrame (w : Bytes) : Bool :=
  legalFrame w && (byteAt w 0 &&& 0x20#8 == 0) && (byteAt w 1 &&& 0xF0#8 == 0) && (byteAt w 2 &&& 0x40#8 == 0)

/-- What every response keeps to: a packet with legal bits per pixel and `TCV = TC`, zero `SEC` and `FRAC` when the
timecode is absent (R31, R32, R28); a canonical frame (R152); an error of its own operation with zero and empty results
(R130, R149, R210). -/
def Response.legal : Response → Bool
  | .dec none f _ => f.valid && (f.tcv == 1#1 || (f.sec == 0 && f.frac == 0))
  | .dec (some e) f pay => e.ofDec && (f == Ports.zero) && (pay == [])
  | .enc none wire => canonicalFrame wire
  | .enc (some e) wire => !e.ofDec && (wire == [])

/-- The invariant of the machine: `MAX_WIRE` is a value R7 allows, every response delivered is legal, and between
transactions the ports hold nothing (R20, R34; their zeros are log 2). -/
def State.Inv (s : State) : Prop :=
  Config.maxWireLegal s.maxWire = true ∧ (∀ r ∈ s.outbox, r.legal = true) ∧
    s.op = 0 ∧ s.err = none ∧ s.f = Ports.zero ∧ s.pay = [] ∧ s.wire = []

/-- Every pending request is one the host interface can express (R58). -/
def State.Safe (s : State) : Prop := ∀ r ∈ s.inbox, admitted s.maxWire r = true

/-- A safe outcome: the machine goes on (R189, R222). -/
def goesOn (o : Host.Outcome State Fault Refusal) : Prop := ∃ t, o = .next t

end Sys2Proof.Machine
end

