-- ==== Sys2Proof/Certificates/Slice0/Obligations.lean ====
section
/-! DEFINITION. The statements for the provers, from the numbered rules of spec/. The forms under `SpecForm` write a
rule's tables down once more, in the arithmetic of natural numbers, so that a statement does not repeat the model's own
definition. Two of the model's conventions are named where a statement rests on them: log 2 (the ports are zero between
transactions) and log 9 (a micro-operation run outside its precondition faults). -/

namespace Sys2Proof.SpecForm

open Sys2Proof.Machine

/-- Byte `i` of a frame as a number, 0 to 255 (R11). -/
def at' (w : Bytes) (i : Nat) : Nat := (w.getD i 0).toNat

/-- The size-code table of R92: code and bits per pixel. -/
def sizePairs : List (Nat × Nat) := [(0, 0), (1, 1), (2, 4), (3, 8), (4, 16), (5, 24), (6, 32)]

/-- Bits per pixel of the size codes 0 to 6 (R92). -/
def bitsOf : Nat → Nat
  | 0 => 0
  | 1 => 1
  | 2 => 4
  | 3 => 8
  | 4 => 16
  | 5 => 24
  | _ => 32

/-- Bit 4 of byte 0, the timecode flag (R82). -/
def flagged (w : Bytes) : Bool := at' w 0 / 16 % 2 == 1

/-- The header length of a frame (R81). -/
def headerOf (w : Bytes) : Nat := if flagged w then 14 else 10

/-- The assembly of the sixteen ports from a frame's bits (R90). -/
def ports (w : Bytes) : Ports :=
  { ver := BitVec.ofNat 2 (at' w 0 / 64), tc := BitVec.ofNat 1 (at' w 0 / 16), st := BitVec.ofNat 1 (at' w 0 / 8),
    rp := BitVec.ofNat 1 (at' w 0 / 4), qy := BitVec.ofNat 1 (at' w 0 / 2), pu := BitVec.ofNat 1 (at' w 0),
    std := BitVec.ofNat 1 (1 - at' w 2 / 128), type := BitVec.ofNat 3 (at' w 2 / 8),
    bpp := BitVec.ofNat 8 (bitsOf (at' w 2 % 8)), seq := BitVec.ofNat 4 (at' w 1), id := BitVec.ofNat 8 (at' w 3),
    offset := BitVec.ofNat 32 (16777216 * at' w 4 + 65536 * at' w 5 + 256 * at' w 6 + at' w 7),
    length := BitVec.ofNat 16 (256 * at' w 8 + at' w 9), tcv := BitVec.ofNat 1 (at' w 0 / 16),
    sec := if flagged w then BitVec.ofNat 16 (256 * at' w 10 + at' w 11) else 0,
    frac := if flagged w then BitVec.ofNat 16 (256 * at' w 12 + at' w 13) else 0 }

/-- A number as one byte. -/
def byte (n : Nat) : Byte := BitVec.ofNat 8 n

/-- The two bytes of a number, big-endian (R13). -/
def two (n : Nat) : Bytes := [byte (n / 256), byte n]

/-- The four bytes of a number, big-endian (R13). -/
def four (n : Nat) : Bytes := [byte (n / 16777216), byte (n / 65536), byte (n / 256), byte n]

/-- Byte 0 of the frame of a packet (R91). -/
def flagsByte (ver : BitVec 2) (tc st rp qy pu : BitVec 1) : Byte :=
  byte (64 * ver.toNat + 16 * tc.toNat + 8 * st.toNat + 4 * rp.toNat + 2 * qy.toNat + pu.toNat)

/-- Byte 2 of the frame of a packet with size code `z` (R91). -/
def typeByte (std : BitVec 1) (type : BitVec 3) (z : Nat) : Byte :=
  byte (128 * (1 - std.toNat) + 8 * type.toNat + z)

/-- The header of a packet with size code `z`, bytes 0 to 9 (R91, R146). -/
def header (f : Ports) (z : Nat) : Bytes :=
  [flagsByte f.ver f.tc f.st f.rp f.qy f.pu, byte f.seq.toNat, typeByte f.std f.type z, f.id] ++
    four f.offset.toNat ++ two f.length.toNat

/-- Bytes 10 to 13 of the frame of a packet, present when `TC` is 1 (R91). -/
def timecodeBytes (f : Ports) : Bytes := if f.tc = 1#1 then two f.sec.toNat ++ two f.frac.toNat else []

/-- The state after `DEC` has answered. -/
def decAnswer (s : State) (e : Option DdpError) (f : Ports) (pay : Bytes) : State :=
  { s with err := e, f := f, pay := pay, outbox := s.outbox ++ [.dec e f pay] }

/-- The state after `ENC` has answered. -/
def encAnswer (s : State) (e : Option DdpError) (wire : Bytes) : State :=
  { s with err := e, wire := wire, outbox := s.outbox ++ [.enc e wire] }

/-- The operands of two requests agree, as far as the operation has operands (R42, R43). -/
def sameOperands (r r' : Request) : Prop :=
  r.op = r'.op ∧ (r.op = 0#1 → r.wire = r'.wire) ∧ (r.op = 1#1 → r.f = r'.f ∧ r.pay = r'.pay)

/-- A packet but for the two ports that carry no information when the timecode is absent (R28). -/
def withoutTime (f : Ports) : Ports := { f with sec := 0, frac := 0 }

/-- Two states that agree but for the fields in which micro-operations hand on their results (log 3). -/
def sameButResults (t u : State) : Prop :=
  { t with byteOut := 0, halfOut := 0, wordOut := 0, sizeCode := 0, sizeOut := none, bppOut := none, w := [] } =
    { u with byteOut := 0, halfOut := 0, wordOut := 0, sizeCode := 0, sizeOut := none, bppOut := none, w := [] }

end Sys2Proof.SpecForm

open Sys2Proof Sys2Proof.Machine Sys2Proof.SpecForm

/-! ## The machine -/

/-- After reset the invariant holds and nothing is asked or answered (R44, R230; the ports' zeros are log 2, the
unbounded `MAX_WIRE` log 4). -/
def Obligations.ResetMeetsInvariantWithNothingPending : Prop :=
  State.reset.Inv ∧ State.reset.inbox = [] ∧ State.reset.outbox = []

/-- Every step keeps the invariant: every response delivered is legal (R31, R32, R152, R210; decisions D10, D11, D12, log
18, 19, 15), `MAX_WIRE` is a legal value (R7), and between transactions the block holds nothing (R20, R34; the zeros are
log 2). -/
def Obligations.EveryStepKeepsInvariant : Prop :=
  ∀ s t : State, s.Inv → step s = .next t → t.Inv

/-- A step runs the operation whose code is the request's `OP` (decision D3; `OP` in a byte as the row's code is log 6),
on the request's operands, and then ends the transaction (R10, R37, R99; the ports' zeros are log 2). -/
def Obligations.StepRunsDecodedOperation : Prop :=
  ∀ (s : State) (r : Request) (rest : List Request) (i : Instr),
    s.inbox = r :: rest → admitted s.maxWire r = true →
    decode ⟨if r.op = 0#1 then .dec else .enc, 0, [r.op.setWidth 8]⟩ = .ok i →
    step s = andThen (exec i { s with inbox := rest, op := r.op, f := r.f, pay := r.pay, wire := r.wire })
      (fun t => .next { t with op := 0, err := none, f := Ports.zero, pay := [], wire := [] })

/-- Every admitted request gets exactly one response in its step, of its own operation, and nothing else of the state
is changed (R130, R149, R222) but the ports: that `OP`, `ERR`, `F`, `PAY` and `WIRE` are zero and empty after the step is
the model's choice (log 2). -/
def Obligations.AdmittedRequestGetsOneResponse : Prop :=
  ∀ (s : State) (r : Request) (rest : List Request), s.inbox = r :: rest → admitted s.maxWire r = true →
    ∃ a : Response, (r.op = 0#1 ↔ ∃ e f p, a = .dec e f p) ∧
      step s = .next { s with inbox := rest, outbox := s.outbox ++ [a], op := 0, err := none, f := Ports.zero,
                              pay := [], wire := [] }

/-- A request outside the bound is no transaction: `DEC` with more than `MAX_WIRE` bytes, `ENC` whose frame would have
more (R58, decision D7, log 4). -/
def Obligations.RequestOutsideBoundIsRefused : Prop :=
  ∀ (s : State) (r : Request) (rest : List Request) (m : Nat), s.inbox = r :: rest → s.maxWire = some m →
    (r.op = 0#1 ∧ m < r.wire.length ∨ r.op = 1#1 ∧ m < 10 + 4 * r.f.tc.toNat + r.pay.length) →
    step s = .refused .requestNotAdmitted

/-- Every response fits in `MAX_WIRE` (R58, decision D7, log 4): a payload of `DEC` with a header of ten bytes before it, and a frame of
`ENC`, where `MAX_WIRE` is a number that R7 allows. -/
def Obligations.ResponsesFitTheBound : Prop :=
  ∀ (s : State) (r : Request) (rest : List Request) (m : Nat), s.inbox = r :: rest → s.maxWire = some m → 14 ≤ m →
    admitted s.maxWire r = true →
    ∃ (a : Response) (t : State), step s = .next t ∧ t.outbox = s.outbox ++ [a] ∧
      (∀ e f p, a = .dec e f p → p.length + 10 ≤ m) ∧ (∀ e w, a = .enc e w → w.length ≤ m)

/-- The response to a request is a function of that request alone (R20): in any two states whose next requests have the
same operands, the same response is delivered. -/
def Obligations.ResponseIsFunctionOfRequestAlone : Prop :=
  ∀ (s s' : State) (r r' : Request) (rest rest' : List Request), s.inbox = r :: rest → s'.inbox = r' :: rest' →
    sameOperands r r' → admitted s.maxWire r = true → admitted s'.maxWire r' = true →
    ∃ (a : Response) (t t' : State), step s = .next t ∧ t.outbox = s.outbox ++ [a] ∧
      step s' = .next t' ∧ t'.outbox = s'.outbox ++ [a]

/-- A list of admitted requests is answered in issue order, each as in isolation: one function gives every response,
whatever the state, the bound and the other requests are (R62, R251; decisions D15, D21, log 21). -/
def Obligations.QueueIsAnsweredInOrderAsInIsolation : Prop :=
  ∃ answer : Request → Response, ∀ s : State, s.Safe →
    ∃ t : State, Host.Core.run Sys2Proof.core s.inbox.length s = .next t ∧ t.inbox = [] ∧
      t.outbox = s.outbox ++ s.inbox.map answer

/-- Only `DEC` and `ENC` answer the host, and no operation issues a request, changes `OP` or changes `MAX_WIRE`: all
other rows are internal (R100, R62; decision D24, log 6). -/
def Obligations.OnlyDecAndEncAnswerTheHost : Prop :=
  ∀ (i : Instr) (s t : State), exec i s = .next t →
    t.inbox = s.inbox ∧ t.maxWire = s.maxWire ∧ t.op = s.op ∧ (i ≠ .dec → i ≠ .enc → t.outbox = s.outbox)

/-! ## DEC -/

/-- `DEC` of a legal frame: every port from its bits (R90), the payload all remaining bytes (R128), `OK`; everything
else is unchanged. With size code 7 the port `BPP` has no value and `DEC` answers with an error (R90). -/
def Obligations.DecFillsEveryPortFromItsBits : Prop :=
  ∀ s : State,
    (legalFrame s.wire = true →
      exec .dec s = .next (decAnswer s none (SpecForm.ports s.wire) (s.wire.drop (headerOf s.wire)))) ∧
    (10 ≤ s.wire.length → at' s.wire 2 % 8 = 7 → ∃ t, exec .dec s = .next t ∧ t.err ≠ none)

/-- `DEC` on any buffer of fewer than 10 bytes, the empty one too, fails with `TooShort`; only the length is used
(R122). -/
def Obligations.DecBelowTenBytesIsTooShort : Prop :=
  ∀ s : State, s.wire.length < 10 → ∃ t, exec .dec s = .next t ∧ t.err = some .tooShort

/-- The timecode and the second length check (R127; the zeros with the flag clear are decision D11, log 19, and a size code
other than 7 is presumed, R131). -/
def Obligations.DecTimecodeAndSecondLengthCheck : Prop :=
  ∀ s : State, 10 ≤ s.wire.length → at' s.wire 2 % 8 ≠ 7 →
    (flagged s.wire = true → s.wire.length < 14 → ∃ t, exec .dec s = .next t ∧ t.err = some .tooShort) ∧
    (flagged s.wire = true → 14 ≤ s.wire.length → ∃ t, exec .dec s = .next t ∧ t.err = none ∧
      t.f.timecode = some (BitVec.ofNat 16 (256 * at' s.wire 10 + at' s.wire 11),
        BitVec.ofNat 16 (256 * at' s.wire 12 + at' s.wire 13)) ∧ t.pay = s.wire.drop 14) ∧
    (flagged s.wire = false → ∃ t, exec .dec s = .next t ∧ t.err = none ∧ t.f.timecode = none ∧ t.f.sec = 0 ∧
      t.f.frac = 0 ∧ t.pay = s.wire.drop 10)

/-- Which error `DEC` reports, for every buffer (R206, T3, T4; for a frame with two defects the order is decision D9, log 14):
exactly one of `TooShort`, `UnknownSizeCode`, success. -/
def Obligations.DecReportsTheFirstDefect : Prop :=
  ∀ s : State, ∃ t, exec .dec s = .next t ∧
    (t.err = some .tooShort ↔ s.wire.length < 10 ∨
      s.wire.length < 14 ∧ byteAt s.wire 0 &&& 0x10#8 ≠ 0 ∧ byteAt s.wire 2 &&& 7#8 ≠ 7) ∧
    (t.err = some .unknownSizeCode ↔ 10 ≤ s.wire.length ∧ byteAt s.wire 2 &&& 7#8 = 7) ∧
    (t.err = none ↔ legalFrame s.wire = true)

/-- An error response of `DEC` has every port 0 and an empty payload, one of `ENC` an empty frame; nothing else happens
(R210; the exact zeros are decision D10, log 18). -/
def Obligations.ErrorResponseHasZeroResult : Prop :=
  ∀ s : State,
    (∃ e f p, exec .dec s = .next (decAnswer s e f p) ∧
      (e ≠ none → f = Ports.zero ∧ p = [] ∧ (e = some .tooShort ∨ e = some .unknownSizeCode))) ∧
    (∃ e w, exec .enc s = .next (encAnswer s e w) ∧
      (e ≠ none → w = [] ∧ (e = some .unsupportedBitsPerPixel ∨ e = some .missingTimecode)))

/-- Two frames that differ only in the six reserved bits have the same response (R93, R133; byte 2 bit 6 is decision
D12, log 15). -/
def Obligations.DecIgnoresReservedBits : Prop :=
  ∀ s s' : State, clearReserved s.wire = clearReserved s'.wire →
    ∃ t t', exec .dec s = .next t ∧ exec .dec s' = .next t' ∧ t'.err = t.err ∧ t'.f = t.f ∧ t'.pay = t.pay

/-- Toggling one bit of byte 0 of a legal frame changes exactly that field: bits 3 to 0 `ST`, `RP`, `QY`, `PU` and
nothing else of the response, bit 5 nothing, bits 6 and 7 `VER` only; bit 4 changes `TC`, the timecode ports and the
payload, no other port, where both frames are legal, and gives `TooShort` below 14 bytes (R135). -/
def Obligations.FlagBitsAreIsolated : Prop :=
  ∀ (s : State) (b : Byte) (rest : Bytes), s.wire = b :: rest → legalFrame s.wire = true →
    ∃ t, exec .dec s = .next t ∧
      (∀ m f, ((m, f) ∈ [(0x01#8, { t.f with pu := ~~~ t.f.pu }), (0x02#8, { t.f with qy := ~~~ t.f.qy }),
                         (0x04#8, { t.f with rp := ~~~ t.f.rp }), (0x08#8, { t.f with st := ~~~ t.f.st }),
                         (0x20#8, t.f), (0x40#8, { t.f with ver := t.f.ver ^^^ 1#2 }),
                         (0x80#8, { t.f with ver := t.f.ver ^^^ 2#2 })]) →
        ∃ u, exec .dec { s with wire := (b ^^^ m) :: rest } = .next u ∧ u.err = none ∧ u.f = f ∧ u.pay = t.pay) ∧
      (∃ u, exec .dec { s with wire := (b ^^^ 0x10#8) :: rest } = .next u ∧
        (14 ≤ s.wire.length → u.err = none ∧
          u.f = { t.f with tc := ~~~ t.f.tc, tcv := u.f.tcv, sec := u.f.sec, frac := u.f.frac }) ∧
        (s.wire.length < 14 → u.err = some .tooShort))

/-- `DEC` does not cross-check `LENGTH`: other bytes 8 and 9 change `LENGTH` and nothing else of the response, the
payload neither cut nor padded (R129). -/
def Obligations.DecNeverUsesDeclaredLength : Prop :=
  ∀ (s : State) (x y : Byte), legalFrame s.wire = true →
    ∃ t u, exec .dec s = .next t ∧ exec .dec { s with wire := (s.wire.set 8 x).set 9 y } = .next u ∧
      t.err = none ∧ u.err = none ∧ t.pay = s.wire.drop (headerOf s.wire) ∧ u.pay = t.pay ∧
      u.f = { t.f with length := BitVec.ofNat 16 (256 * x.toNat + y.toNat) }

/-- Every successful response of `DEC`: `TCV = TC` (R32, R134), and `len(PAY)` is what the header leaves (R134). -/
def Obligations.DecTimecodePresenceAndPayloadLength : Prop :=
  ∀ s : State, ∃ t, exec .dec s = .next t ∧
    (t.err = none → t.f.tcv = t.f.tc ∧ s.wire.length = 10 + 4 * t.f.tc.toNat + t.pay.length)

/-- In every successful `DEC` response `BPP` is a member of the closed set (R31). -/
def Obligations.DecBitsPerPixelInClosedSet : Prop :=
  ∀ s : State, ∃ t, exec .dec s = .next t ∧ (t.err = none → t.f.bpp ∈ [0#8, 1#8, 4#8, 8#8, 16#8, 24#8, 32#8])

/-! ## ENC -/

/-- `ENC` of a valid packet emits bytes 0 to 9 in the fixed order (R146), the timecode when flagged, and the payload
verbatim at the end (R147); everything else is unchanged. -/
def Obligations.EncEmitsFrameInFixedOrder : Prop :=
  ∀ (s : State) (z : Nat), (z, s.f.bpp.toNat) ∈ sizePairs → s.f.tcv = s.f.tc →
    exec .enc s = .next (encAnswer s none (header s.f z ++ timecodeBytes s.f ++ s.pay))

/-- With `TC` = 0 a supplied timecode is no error and is not emitted, whatever `TCV`, `SEC`, `FRAC` are (R144,
decision D25, log 16). -/
def Obligations.EncDropsUnflaggedTimecode : Prop :=
  ∀ (s : State) (z : Nat), (z, s.f.bpp.toNat) ∈ sizePairs → s.f.tc = 0#1 →
    exec .enc s = .next (encAnswer s none (header s.f z ++ s.pay))

/-- A flagged timecode must be present: absent, `MissingTimecode`; present, `SEC` at bytes 10 to 11 and `FRAC` at 12 to
13, big-endian (R143). -/
def Obligations.EncRequiresFlaggedTimecode : Prop :=
  ∀ s : State, s.f.bpp ∈ bppSet → s.f.tc = 1#1 →
    (s.f.tcv = 0#1 → ∃ t, exec .enc s = .next t ∧ t.err = some .missingTimecode) ∧
    (s.f.tcv = 1#1 → ∃ t, exec .enc s = .next t ∧ t.err = none ∧
      (t.wire.drop 10).take 4 = two s.f.sec.toNat ++ two s.f.frac.toNat)

/-- The data-type byte (R145): any bits per pixel outside the set fails with `UnsupportedBitsPerPixel`; else, where
`ENC` succeeds, bit 7 is `1 - STD`, bit 6 is 0, bits 5 to 3 `TYPE`, bits 2 to 0 the size code. -/
def Obligations.EncRebuildsDataTypeByte : Prop :=
  ∀ s : State,
    (s.f.bpp ∉ bppSet → ∃ t, exec .enc s = .next t ∧ t.err = some .unsupportedBitsPerPixel) ∧
    (∀ z, (z, s.f.bpp.toNat) ∈ sizePairs → ∃ t, exec .enc s = .next t ∧ (t.err = none →
      at' t.wire 2 = 128 * (1 - s.f.std.toNat) + 8 * s.f.type.toNat + z))

/-- Which error `ENC` reports, for every packet (R206, T5, T6; with two defects the order is decision D9, log 14; that `TC` = 0 with `TCV` = 1
succeeds is decision D25, log 16). -/
def Obligations.EncReportsTheFirstDefect : Prop :=
  ∀ s : State, ∃ t, exec .enc s = .next t ∧
    (t.err = some .unsupportedBitsPerPixel ↔ s.f.bpp ∉ bppSet) ∧
    (t.err = some .missingTimecode ↔ s.f.bpp ∈ bppSet ∧ s.f.tc = 1#1 ∧ s.f.tcv = 0#1) ∧
    (t.err = none ↔ s.f.bpp ∈ bppSet ∧ (s.f.tc = 1#1 → s.f.tcv = 1#1))

/-- `ENC` emits `LENGTH` as given, at bytes 8 and 9, and the whole payload, however long; another `LENGTH` changes those
two bytes and nothing else of the response, so it is neither computed nor compared (R148). -/
def Obligations.EncNeverUsesDeclaredLength : Prop :=
  ∀ (s : State) (l : BitVec 16), ∃ t u, exec .enc s = .next t ∧ exec .enc { s with f := { s.f with length := l } } = .next u ∧
    (t.err = none → 256 * at' t.wire 8 + at' t.wire 9 = s.f.length.toNat ∧
      t.wire.drop (10 + 4 * s.f.tc.toNat) = s.pay) ∧
    u.err = t.err ∧ u.wire = (t.wire.set 8 (byte (l.toNat / 256))).set 9 (byte l.toNat)

/-- Every successful `ENC` response: its length, canonical and so legal, and the payload after the header (R152). That
byte 2 bit 6 is one of the reserved bits of a canonical frame is decision D12 (log 15). -/
def Obligations.EncOutputIsCanonical : Prop :=
  ∀ s : State, ∃ t, exec .enc s = .next t ∧ (t.err = none →
    t.wire.length = 10 + 4 * s.f.tc.toNat + s.pay.length ∧ canonicalFrame t.wire = true ∧
    t.wire.drop (10 + 4 * s.f.tc.toNat) = s.pay)

/-- `ENC` is injective on valid packets, the timecode compared as the optional value (R153). -/
def Obligations.EncIsInjectiveOnValidPackets : Prop :=
  ∀ s s' t t' : State, s.f.valid = true → s'.f.valid = true → exec .enc s = .next t → exec .enc s' = .next t' →
    t.wire = t'.wire →
    s.pay = s'.pay ∧ withoutTime s.f = withoutTime s'.f ∧ s.f.timecode = s'.f.timecode

/-! ## Round trips -/

/-- Packet to frame to packet (R150): a packet with legal bits per pixel and the timecode present iff flagged encodes,
and its frame decodes to an equal packet, the timecode compared as the optional value. -/
def Obligations.PacketRoundTrip : Prop :=
  ∀ s : State, s.f.valid = true → ∃ t, exec .enc s = .next t ∧ t.err = none ∧
    ∀ s' : State, s'.wire = t.wire → ∃ u, exec .dec s' = .next u ∧ u.err = none ∧ u.pay = s.pay ∧
      withoutTime u.f = withoutTime s.f ∧ u.f.timecode = s.f.timecode

/-- Frame to packet to frame (R151): a legal frame decodes, what it decodes to encodes, and the result is the frame with
its six reserved bits cleared; it is the frame itself exactly when that is canonical. Byte 2 bit 6 is one of the six by
decision D12 (log 15). -/
def Obligations.FrameRoundTripIsCanonical : Prop :=
  ∀ s : State, legalFrame s.wire = true → ∃ t, exec .dec s = .next t ∧ t.err = none ∧
    ∀ s' : State, s'.f = t.f → s'.pay = t.pay → ∃ u, exec .enc s' = .next u ∧ u.err = none ∧
      u.wire = clearReserved s.wire ∧ (u.wire = s.wire ↔ canonicalFrame s.wire = true)

/-- Every legal frame has exactly one canonical frame with the same `DEC` result, the frame with its six reserved bits
cleared (R98): that frame is canonical and has the result, and no other canonical frame has it. Byte 2 bit 6 is reserved
by decision D12 (log 15). -/
def Obligations.CanonicalFrameIsUnique : Prop :=
  ∀ s : State, legalFrame s.wire = true →
    canonicalFrame (clearReserved s.wire) = true ∧
    ∃ t, exec .dec s = .next t ∧ ∀ s' : State, canonicalFrame s'.wire = true →
      ∃ t', exec .dec s' = .next t' ∧
        ((t'.err = t.err ∧ t'.f = t.f ∧ t'.pay = t.pay) ↔ s'.wire = clearReserved s.wire)

/-- The result of a successful `DEC` is always an admitted `ENC` request, under the same bound (R58, decision D7,
log 4). -/
def Obligations.DecodedPacketIsAdmittedForEncoding : Prop :=
  ∀ (s : State) (r : Request), r.op = 0#1 → admitted s.maxWire r = true →
    ∃ t, exec .dec { s with wire := r.wire } = .next t ∧
      (t.err = none → ∀ wire, admitted s.maxWire { op := 1, f := t.f, pay := t.pay, wire := wire } = true)

/-! ## `DEC` and `ENC` out of their parts -/

/-- `DEC` is the sequence of its micro-operations (R121): run one by one they never fault (R189) and leave the answer of
`DEC`, in every state. -/
def Obligations.DecIsItsMicroOperations : Prop :=
  ∀ s : State, ∃ t u, decSequence s = .next t ∧ exec .dec s = .next u ∧ sameButResults t u

/-- `ENC` is the sequence of its micro-operations (R141), in every state. -/
def Obligations.EncIsItsMicroOperations : Prop :=
  ∀ s : State, ∃ t u, encSequence s = .next t ∧ exec .enc s = .next u ∧ sameButResults t u

/-- Reading a legal frame part by part, each part by its wire row, fills the ports and the payload as `DEC` does (R80 to
R90; the rows as instructions are log 10). -/
def Obligations.WireRowsReadFrameAsDecDoes : Prop :=
  ∀ s : State, legalFrame s.wire = true → s.f = Ports.zero → s.pay = [] →
    ∃ t u, wireSequence s.wire s = .next t ∧ exec .dec s = .next u ∧ t.f = u.f ∧ t.pay = u.pay

/-! ## The marshaller -/

/-- `UNPACK_FLAGS` (R161): the six ports of byte 0; bit 5 is not read; nothing else is changed. -/
def Obligations.UnpackFlagsFillsSixPorts : Prop :=
  ∀ (b : Byte) (s : State), exec (.unpackFlags b) s = .next { s with f := { s.f with
    ver := BitVec.ofNat 2 (b.toNat / 64), tc := BitVec.ofNat 1 (b.toNat / 16), st := BitVec.ofNat 1 (b.toNat / 8),
    rp := BitVec.ofNat 1 (b.toNat / 4), qy := BitVec.ofNat 1 (b.toNat / 2), pu := BitVec.ofNat 1 b.toNat } }

/-- `UNPACK_SEQ` (R163) and `UNPACK_DTYPE` (R165): `SEQ` from the low nibble; `STD` inverted, `TYPE` and the raw size
code; nothing else is changed. -/
def Obligations.UnpackSeqAndDtypeFillTheirPorts : Prop :=
  ∀ (b : Byte) (s : State),
    exec (.unpackSeq b) s = .next { s with f := { s.f with seq := BitVec.ofNat 4 b.toNat } } ∧
    exec (.unpackDtype b) s = .next { s with
      f := { s.f with std := BitVec.ofNat 1 (1 - b.toNat / 128), type := BitVec.ofNat 3 (b.toNat / 8) },
      sizeCode := BitVec.ofNat 3 b.toNat }

/-- `PACK_FLAGS`, `PACK_SEQ`, `PACK_DTYPE` (R162, R164, R168): the byte they build; nothing else is changed. -/
def Obligations.PackersBuildTheirByte : Prop :=
  ∀ (ver : BitVec 2) (tc st rp qy pu std : BitVec 1) (seq : BitVec 4) (type z : BitVec 3) (s : State),
    exec (.packFlags ver tc st rp qy pu) s = .next { s with byteOut := flagsByte ver tc st rp qy pu } ∧
    exec (.packSeq seq) s = .next { s with byteOut := byte seq.toNat } ∧
    exec (.packDtype std type z) s = .next { s with byteOut := SpecForm.typeByte std type z.toNat }

/-- `SIZE2BPP` (R166) and `BPP2SIZE` (R167), the two readings of one table (R171): a code and a value are each other's
result exactly when the table pairs them; code 7 fails and every other value gives `none`; nothing else is changed. -/
def Obligations.SizeCodeTableIsReadBothWays : Prop :=
  ∀ (z : BitVec 3) (v : BitVec 8) (s : State), ∃ a b,
    exec (.size2bpp z) s = .next { s with bppOut := a } ∧ exec (.bpp2size v) s = .next { s with sizeOut := b } ∧
    (a = some v ↔ (z.toNat, v.toNat) ∈ sizePairs) ∧ (b = some z ↔ (z.toNat, v.toNat) ∈ sizePairs) ∧
    (a = none ↔ z = 7) ∧ (b = none ↔ v ∉ bppSet)

/-- The inverse laws of the marshaller (R170), of the operations and run: packing what was unpacked clears the reserved bits, unpacking what was
packed gives the operands back, and the two table readings undo each other. -/
def Obligations.PackersInvertUnpackers : Prop :=
  marshallerInverseLaws ∧
  ∀ (b : Byte) (s : State),
    (∃ t u, exec (.unpackFlags b) s = .next t ∧ exec (.packFlags t.f.ver t.f.tc t.f.st t.f.rp t.f.qy t.f.pu) t = .next u ∧
      u.byteOut = b &&& 0xDF#8) ∧
    (∃ t u, exec (.unpackSeq b) s = .next t ∧ exec (.packSeq t.f.seq) t = .next u ∧ u.byteOut = b &&& 0x0F#8) ∧
    (∃ t u, exec (.unpackDtype b) s = .next t ∧ exec (.packDtype t.f.std t.f.type t.sizeCode) t = .next u ∧
      u.byteOut = b &&& 0xBF#8) ∧
    (∃ t u, exec (.packFlags s.f.ver s.f.tc s.f.st s.f.rp s.f.qy s.f.pu) s = .next t ∧
      exec (.unpackFlags t.byteOut) t = .next u ∧ u.f = s.f) ∧
    (∃ t u, exec (.packSeq s.f.seq) s = .next t ∧ exec (.unpackSeq t.byteOut) t = .next u ∧ u.f = s.f) ∧
    (∃ t u, exec (.packDtype s.f.std s.f.type s.sizeCode) s = .next t ∧ exec (.unpackDtype t.byteOut) t = .next u ∧
      u.f = s.f ∧ u.sizeCode = s.sizeCode) ∧
    (∀ z : BitVec 3, z ≠ 7 → ∃ v t u, exec (.size2bpp z) s = .next t ∧ t.bppOut = some v ∧
      exec (.bpp2size v) t = .next u ∧ u.sizeOut = some z) ∧
    (∀ v ∈ bppSet, ∃ z t u, exec (.bpp2size v) s = .next t ∧ t.sizeOut = some z ∧
      exec (.size2bpp z) t = .next u ∧ u.bppOut = some v)

/-! ## The serializer -/

/-- `GET8`, `GET16BE`, `GET32BE` (R180, R181, R182) at an index whose bytes exist: the big-endian value; nothing else is
changed. -/
def Obligations.LoadsReadBigEndianValues : Prop :=
  ∀ (i : Nat) (s : State),
    (i < s.wire.length → exec (.get8 i) s = .next { s with byteOut := byte (at' s.wire i) }) ∧
    (i + 1 < s.wire.length → exec (.get16be i) s = .next { s with
      halfOut := BitVec.ofNat 16 (256 * at' s.wire i + at' s.wire (i + 1)) }) ∧
    (i + 3 < s.wire.length → exec (.get32be i) s = .next { s with
      wordOut := BitVec.ofNat 32 (16777216 * at' s.wire i + 65536 * at' s.wire (i + 1) + 256 * at' s.wire (i + 2) +
        at' s.wire (i + 3)) })

/-- `PUT8`, `PUT16BE`, `PUT32BE` (R183, R184, R185) at the end of `W`: its bytes appended, big-endian; nothing else is
changed. -/
def Obligations.StoresAppendBigEndianBytes : Prop :=
  ∀ (i : Nat) (v : BitVec 8) (h : BitVec 16) (d : BitVec 32) (s : State), s.w.length = i →
    exec (.put8 i v) s = .next { s with w := s.w ++ [v] } ∧
    exec (.put16be i h) s = .next { s with w := s.w ++ two h.toNat } ∧
    exec (.put32be i d) s = .next { s with w := s.w ++ four d.toNat }

/-- `SLICE` (R186) and `APPEND` (R187): the payload is the bytes from `h` on, of length `len(WIRE) - h`; the frame is `W`
followed by the payload; nothing else is changed. -/
def Obligations.SliceAndAppendMoveThePayload : Prop :=
  ∀ (h : Nat) (s : State),
    (h ≤ s.wire.length → ∃ p, exec (.slice h) s = .next { s with pay := p } ∧ p.length = s.wire.length - h ∧
      ∀ i, byteAt? p i = byteAt? s.wire (h + i)) ∧
    (∃ w, exec .append s = .next { s with wire := w } ∧ w.length = s.w.length + s.pay.length ∧
      (∀ i, i < s.w.length → byteAt? w i = byteAt? s.w i) ∧ (∀ i, byteAt? w (s.w.length + i) = byteAt? s.pay i))

/-- A micro-operation run outside its precondition stops, by name (the model's choice, log 9): a load or `SLICE` past the
end of `WIRE`, a store that is not at the end of `W`. -/
def Obligations.SerializerStopsOutsidePrecondition : Prop :=
  ∀ (i : Nat) (v : BitVec 8) (h : BitVec 16) (d : BitVec 32) (s : State),
    (s.wire.length ≤ i → exec (.get8 i) s = .fault .outsideBuffer) ∧
    (s.wire.length ≤ i + 1 → exec (.get16be i) s = .fault .outsideBuffer) ∧
    (s.wire.length ≤ i + 3 → exec (.get32be i) s = .fault .outsideBuffer) ∧
    (s.wire.length < i → exec (.slice i) s = .fault .outsideBuffer) ∧
    (s.w.length ≠ i → exec (.put8 i v) s = .fault .putIndexNotLength ∧
      exec (.put16be i h) s = .fault .putIndexNotLength ∧ exec (.put32be i d) s = .fault .putIndexNotLength)

/-- Store then load (R190), of the operations and run: the value stored at index `len(W)` is loaded back from any frame that starts with the
output, and bytes below the index are as before. -/
def Obligations.StoreThenLoadReturnsValue : Prop :=
  storeLoadLaws ∧
  ∀ (s : State) (v : BitVec 8) (h : BitVec 16) (d : BitVec 32) (more : Bytes),
    (∃ t u, exec (.put8 s.w.length v) s = .next t ∧ exec (.get8 s.w.length) { t with wire := t.w ++ more } = .next u ∧
      u.byteOut = v ∧ ∀ i, i < s.w.length → byteAt? u.wire i = byteAt? s.w i) ∧
    (∃ t u, exec (.put16be s.w.length h) s = .next t ∧
      exec (.get16be s.w.length) { t with wire := t.w ++ more } = .next u ∧ u.halfOut = h ∧
      ∀ i, i < s.w.length → byteAt? u.wire i = byteAt? s.w i) ∧
    (∃ t u, exec (.put32be s.w.length d) s = .next t ∧
      exec (.get32be s.w.length) { t with wire := t.w ++ more } = .next u ∧ u.wordOut = d ∧
      ∀ i, i < s.w.length → byteAt? u.wire i = byteAt? s.w i)

/-- Load then store (R190) and the laws of `APPEND` and `SLICE` (R191), of the operations, and run: with `W` of length `i`, storing at `i` what was loaded at `i` adds the frame's own bytes
from `i` on to `W`. `APPEND` and `SLICE` (R191), run: the first `i` bytes of a frame and its slice give the frame, and in
every state the slice at `len(W)` of an append gives the payload. -/
def Obligations.LoadThenStoreKeepsBytes : Prop :=
  loadStoreLaws ∧ sliceAppendLaws ∧
  ∀ (s : State) (i : Nat),
    (s.w.length = i →
      (i + 1 ≤ s.wire.length → ∃ t u, exec (.get8 i) s = .next t ∧ exec (.put8 i t.byteOut) t = .next u ∧
        u.w = s.w ++ (s.wire.drop i).take 1) ∧
      (i + 2 ≤ s.wire.length → ∃ t u, exec (.get16be i) s = .next t ∧ exec (.put16be i t.halfOut) t = .next u ∧
        u.w = s.w ++ (s.wire.drop i).take 2) ∧
      (i + 4 ≤ s.wire.length → ∃ t u, exec (.get32be i) s = .next t ∧ exec (.put32be i t.wordOut) t = .next u ∧
        u.w = s.w ++ (s.wire.drop i).take 4)) ∧
    (s.w = s.wire.take i → i ≤ s.wire.length →
      ∃ t u, exec (.slice i) s = .next t ∧ exec .append t = .next u ∧ u.wire = s.wire) ∧
    (∃ t u, exec .append s = .next t ∧ exec (.slice s.w.length) t = .next u ∧ u.pay = s.pay)

/-! ## The wire rows and the status rows -/

/-- Bytes 0, 1, 3, 4 to 7 and 8 to 9 of the frame give their ports (R82, R83, R85, R86, R87), reserved bits ignored;
nothing else is changed (the rows as instructions are log 10). -/
def Obligations.WireRowsAssembleTheirPorts : Prop :=
  ∀ (b0 b1 b2 b3 : Byte) (s : State),
    exec (.wireByte0 b0) s = .next { s with f := { s.f with
      ver := BitVec.ofNat 2 (b0.toNat / 64), tc := BitVec.ofNat 1 (b0.toNat / 16), st := BitVec.ofNat 1 (b0.toNat / 8),
      rp := BitVec.ofNat 1 (b0.toNat / 4), qy := BitVec.ofNat 1 (b0.toNat / 2), pu := BitVec.ofNat 1 b0.toNat } } ∧
    exec (.wireByte1 b0) s = .next { s with f := { s.f with seq := BitVec.ofNat 4 b0.toNat } } ∧
    exec (.wireByte3 b0) s = .next { s with f := { s.f with id := b0 } } ∧
    (∀ v, exec (.wireBytes4to7 v) s = .next { s with f := { s.f with offset := v } }) ∧
    decode ⟨.wireBytes4to7, 0, [b0, b1, b2, b3]⟩ = .ok (.wireBytes4to7
      (BitVec.ofNat 32 (16777216 * b0.toNat + 65536 * b1.toNat + 256 * b2.toNat + b3.toNat))) ∧
    (∀ v, exec (.wireBytes8to9 v) s = .next { s with f := { s.f with length := v } }) ∧
    decode ⟨.wireBytes8to9, 0, [b0, b1]⟩ = .ok (.wireBytes8to9 (BitVec.ofNat 16 (256 * b0.toNat + b1.toNat)))

/-- Byte 2 of the frame (R84, R92): `STD` inverted, `TYPE`, `BPP` by the table, bit 6 ignored (decision D12, log 15); size
code 7 raises `UnknownSizeCode` (R202), whose response has every port 0 and an empty payload (R210, the zeros are
decision D10, log 18). The row as an instruction is log 10. -/
def Obligations.WireByteTwoGivesDataType : Prop :=
  ∀ (b : Byte) (s : State),
    (b.toNat % 8 ≠ 7 → exec (.wireByte2 b) s = .next { s with f := { s.f with
      std := BitVec.ofNat 1 (1 - b.toNat / 128), type := BitVec.ofNat 3 (b.toNat / 8),
      bpp := BitVec.ofNat 8 (bitsOf (b.toNat % 8)) } }) ∧
    (b.toNat % 8 = 7 → exec (.wireByte2 b) s =
      .next { s with err := some .unknownSizeCode, f := Ports.zero, pay := [] })

/-- The size codes of byte 2 (R92): codes 0 to 6 are 0, 1, 4, 8, 16, 24, 32 bits per pixel, whatever the other bits of
the byte are; code 7 is the error `UnknownSizeCode` (R202; the zeros of R210 are decision D10, log 18). The rows as
instructions are log 11. -/
def Obligations.SizeCodeRowsGiveBitsPerPixel : Prop :=
  ∀ (n x : BitVec 1) (t : BitVec 3) (s : State),
    (∀ i bits, (i, bits) ∈ [(Instr.sizeCode0 n x t, 0), (.sizeCode1 n x t, 1), (.sizeCode2 n x t, 4),
        (.sizeCode3 n x t, 8), (.sizeCode4 n x t, 16), (.sizeCode5 n x t, 24), (.sizeCode6 n x t, 32)] →
      exec i s = .next { s with f := { s.f with std := BitVec.ofNat 1 (1 - n.toNat), type := t, bpp := byte bits } }) ∧
    exec (.sizeCode7 n x t) s = .next { s with err := some .unknownSizeCode, f := Ports.zero, pay := [] }

/-- Bytes 10 to 13 (R88) and the payload (R89): with the timecode flag set a present timecode; with it clear an absent
one (zeros by decision D11, log 19) and payload bytes, in order; payload bytes are added in order; nothing else is changed
(the piecewise reading is log 10). -/
def Obligations.TimecodeAndPayloadRows : Prop :=
  ∀ (sec frac : BitVec 16) (p : Bytes) (s : State),
    (s.f.tc = 1#1 → ∃ f, exec (.wireBytes10to13 sec frac) s = .next { s with f := f } ∧
      f.timecode = some (sec, frac) ∧ withoutTime f = withoutTime { s.f with tcv := 1 }) ∧
    (s.f.tc = 0#1 → exec (.wireBytes10to13 sec frac) s = .next { s with
      f := { s.f with tcv := 0, sec := 0, frac := 0 }, pay := s.pay ++ (two sec.toNat ++ two frac.toNat) }) ∧
    (∃ q, exec (.wirePayload p) s = .next { s with pay := q } ∧ (∀ i, i < s.pay.length → byteAt? q i = byteAt? s.pay i) ∧
      ∀ i, byteAt? q (s.pay.length + i) = byteAt? p i)

/-- The values of `ERR` (R9, R38, decision D8): each status row puts its code on `ERR`, an error of `DEC` with every port
0 and an empty payload, an error of `ENC` with an empty frame (R210, decision D10, log 18); nothing else is changed. The
codes are log 17, the rows as instructions log 11. -/
def Obligations.StatusRowsGiveTheirResponse : Prop :=
  ∀ s : State, ∃ t1 t2 t3 t4,
    exec .errOk s = .next { s with err := none } ∧ errCode none = 0#3 ∧
    exec .errTooShort s = .next { s with err := t1, f := Ports.zero, pay := [] } ∧ errCode t1 = 1#3 ∧
    exec .errUnknownSizeCode s = .next { s with err := t2, f := Ports.zero, pay := [] } ∧ errCode t2 = 2#3 ∧
    exec .errUnsupportedBitsPerPixel s = .next { s with err := t3, wire := [] } ∧ errCode t3 = 3#3 ∧
    exec .errMissingTimecode s = .next { s with err := t4, wire := [] } ∧ errCode t4 = 4#3

/-! ## Encoding -/

/-- Decoding the code of a well-formed instruction gives it back, every operand at every value its row admits. A code is
a row, an index and bits by the model's choice (log 6). -/
def Obligations.DecodeOfEncodeIsInstruction : Prop :=
  ∀ i : Instr, i.wf = true → decode (encode i) = .ok i

/-- A code that decodes is the code of the instruction it decodes to, which is well formed: no bit is dropped or read
twice, and every other code is rejected. A code is a row, an index and bits by the model's choice (log 6). -/
def Obligations.EncodeOfDecodeIsCode : Prop :=
  ∀ (c : Code) (i : Instr), decode c = .ok i → encode i = c ∧ i.wf = true

/-- Words written out from the patterns of R82, R84, R92, R185 and the codes of `OP`: they decode to what they stand for.
`OP` is one bit (0 `DEC`, 1 `ENC`) by decision D3 (log 17); that a command is read from bit 0 of an eight-bit word is the
model's choice (log 7), and so is that a row is decoded from its name, index and bits and rejects wrong fixed bits
(log 6). -/
def Obligations.SampleWordsDecodeAsWritten : Prop :=
  decodeTableWord 8 0 = some .dec ∧ decodeTableWord 8 1 = some .enc ∧
  decode ⟨.packFlags, 0, [0b11011111#8]⟩ = .ok (.packFlags 3 1 1 1 1 1) ∧
  decode ⟨.packFlags, 0, [0b00100000#8]⟩ = .error .fixedBits ∧
  decode ⟨.packDtype, 0, [0b10010010#8]⟩ = .ok (.packDtype 0 2 2) ∧
  decode ⟨.put32be, 4, [0x45#8, 0x67#8, 0x89#8, 0x10#8]⟩ = .ok (.put32be 4 1164413200) ∧
  decode ⟨.sizeCode5, 0, [0b10101101#8]⟩ = .ok (.sizeCode5 1 0 5)
end

