-- ==== Sys2Proof/Laws/Fields.lean ====
section
/-! SUPPORT. The bit fields of the three packed header bytes, the size-code table and the big-endian forms: one lemma
per function, saying what it is in numbers, and the inverse laws the round trips rest on (R170, R190). -/

namespace Sys2Proof.Machine

/-! ## Unpacking in numbers (R90) -/

theorem fldVer_unpack_eq : ∀ b : Byte, fldVer.unpack b = BitVec.ofNat 2 (b.toNat / 64) := by decide
theorem fldTc_unpack_eq : ∀ b : Byte, fldTc.unpack b = BitVec.ofNat 1 (b.toNat / 16) := by decide
theorem fldSt_unpack_eq : ∀ b : Byte, fldSt.unpack b = BitVec.ofNat 1 (b.toNat / 8) := by decide
theorem fldRp_unpack_eq : ∀ b : Byte, fldRp.unpack b = BitVec.ofNat 1 (b.toNat / 4) := by decide
theorem fldQy_unpack_eq : ∀ b : Byte, fldQy.unpack b = BitVec.ofNat 1 (b.toNat / 2) := by decide
theorem fldPu_unpack_eq : ∀ b : Byte, fldPu.unpack b = BitVec.ofNat 1 b.toNat := by decide
theorem fldSeq_unpack_eq : ∀ b : Byte, fldSeq.unpack b = BitVec.ofNat 4 b.toNat := by decide
theorem fldStd_unpack_eq : ∀ b : Byte, fldStd.unpack b = BitVec.ofNat 1 (1 - b.toNat / 128) := by decide
theorem fldType_unpack_eq : ∀ b : Byte, fldType.unpack b = BitVec.ofNat 3 (b.toNat / 8) := by decide
theorem fldSize_unpack_eq : ∀ b : Byte, fldSize.unpack b = BitVec.ofNat 3 b.toNat := by decide

/-! ## Packing in numbers (R91) -/

theorem packFlags_eq : ∀ (ver : BitVec 2) (tc st rp qy pu : BitVec 1), packFlags ver tc st rp qy pu =
    BitVec.ofNat 8 (64 * ver.toNat + 16 * tc.toNat + 8 * st.toNat + 4 * rp.toNat + 2 * qy.toNat + pu.toNat) := by
  decide

theorem packSeq_eq : ∀ seq : BitVec 4, packSeq seq = BitVec.ofNat 8 seq.toNat := by decide

theorem packDtype_eq : ∀ (std : BitVec 1) (type z : BitVec 3), packDtype std type z =
    BitVec.ofNat 8 (128 * (1 - std.toNat) + 8 * type.toNat + z.toNat) := by decide

/-! ## Inverse laws (R170) -/

theorem packFlags_unpackFlags : ∀ b : Byte,
    packFlags (fldVer.unpack b) (fldTc.unpack b) (fldSt.unpack b) (fldRp.unpack b) (fldQy.unpack b) (fldPu.unpack b) =
      b &&& 0xDF#8 := by decide

theorem packSeq_unpackSeq : ∀ b : Byte, packSeq (unpackSeq b) = b &&& 0x0F#8 := by decide

theorem packDtype_unpackDtype : ∀ b : Byte,
    packDtype (fldStd.unpack b) (fldType.unpack b) (fldSize.unpack b) = b &&& 0xBF#8 := by decide

theorem unpackFlags_packFlags : ∀ (ver : BitVec 2) (tc st rp qy pu : BitVec 1),
    unpackFlags (packFlags ver tc st rp qy pu) = (ver, tc, st, rp, qy, pu) := by decide

theorem unpackSeq_packSeq : ∀ seq : BitVec 4, unpackSeq (packSeq seq) = seq := by decide

theorem unpackDtype_packDtype : ∀ (std : BitVec 1) (type z : BitVec 3),
    unpackDtype (packDtype std type z) = (std, type, z) := by decide

/-- Reserved bits are not read (R93). -/
theorem unpackFlags_clear : ∀ b : Byte, unpackFlags (b &&& 0xDF#8) = unpackFlags b := by decide
theorem unpackSeq_clear : ∀ b : Byte, unpackSeq (b &&& 0x0F#8) = unpackSeq b := by decide
theorem unpackDtype_clear : ∀ b : Byte, unpackDtype (b &&& 0xBF#8) = unpackDtype b := by decide

/-- The timecode flag of byte 0 is its bit 4 (R82). -/
theorem fldTc_unpack_one : ∀ b : Byte, fldTc.unpack b = 1#1 ↔ b &&& 0x10#8 ≠ 0 := by decide

/-- The size code of byte 2 is its low three bits (R84). -/
theorem fldSize_unpack_seven : ∀ b : Byte, fldSize.unpack b = 7#3 ↔ b &&& 7#8 = 7 := by decide

/-! ## The size-code table (R166, R167) -/

theorem size2bpp_none_iff : ∀ z : BitVec 3, size2bpp z = none ↔ z = 7 := by decide

/-- The two readings of the table are inverse to each other (R170, R171). -/
theorem size2bpp_some_iff : ∀ (z : BitVec 3) (v : BitVec 8), size2bpp z = some v ↔ bpp2size v = some z := by decide

theorem bpp2size_ne_seven : ∀ (v : BitVec 8) (z : BitVec 3), bpp2size v = some z → z ≠ 7 := by decide

/-! ## Big-endian values (R181, R182, R184, R185) -/

/-- Concatenation in numbers: the second part below the first (R14 `a :: b`). -/
theorem append_toNat {m n : Nat} (a : BitVec m) (b : BitVec n) : (a ++ b).toNat = a.toNat * 2 ^ n + b.toNat := by
  rw [BitVec.toNat_append, ← Nat.shiftLeft_add_eq_or_of_lt b.isLt, Nat.shiftLeft_eq]

theorem be16_eq (a b : Byte) : be16 a b = BitVec.ofNat 16 (256 * a.toNat + b.toNat) := by
  apply BitVec.eq_of_toNat_eq
  have ha := a.isLt
  have hb := b.isLt
  rw [be16, append_toNat, BitVec.toNat_ofNat]
  omega

theorem be32_eq (a b c d : Byte) : be32 a b c d =
    BitVec.ofNat 32 (16777216 * a.toNat + 65536 * b.toNat + 256 * c.toNat + d.toNat) := by
  apply BitVec.eq_of_toNat_eq
  have ha := a.isLt
  have hb := b.isLt
  have hc := c.isLt
  have hd := d.isLt
  rw [be32, append_toNat, append_toNat, append_toNat, BitVec.toNat_ofNat]
  omega

/-- Eight bits from bit `k` on, in numbers (R14 `v[hi:lo]`). -/
theorem extract8_eq {n : Nat} (v : BitVec n) (k : Nat) : v.extractLsb' k 8 = BitVec.ofNat 8 (v.toNat / 2 ^ k) := by
  apply BitVec.eq_of_toNat_eq
  simp only [BitVec.extractLsb'_toNat, BitVec.toNat_ofNat, Nat.shiftRight_eq_div_pow]

theorem bytes16_eq (v : BitVec 16) : bytes16 v = [BitVec.ofNat 8 (v.toNat / 256), BitVec.ofNat 8 v.toNat] := by
  simp [bytes16, extract8_eq]

theorem bytes32_eq (v : BitVec 32) : bytes32 v =
    [BitVec.ofNat 8 (v.toNat / 16777216), BitVec.ofNat 8 (v.toNat / 65536), BitVec.ofNat 8 (v.toNat / 256),
     BitVec.ofNat 8 v.toNat] := by
  simp [bytes32, extract8_eq]

/-- A 16-bit value is the big-endian value of its bytes (R190). -/
theorem be16_bytes16 (v : BitVec 16) : be16 (v.extractLsb' 8 8) (v.extractLsb' 0 8) = v := by
  have h := v.isLt
  apply BitVec.eq_of_toNat_eq
  rw [be16_eq]
  simp only [BitVec.extractLsb'_toNat, BitVec.toNat_ofNat, Nat.shiftRight_eq_div_pow]
  omega

/-- The bytes of a big-endian value of two bytes are those bytes (R190). -/
theorem bytes16_be16 (a b : Byte) : bytes16 (be16 a b) = [a, b] := by
  have ha := a.isLt
  have hb := b.isLt
  rw [bytes16_eq, be16_eq]
  simp only [List.cons.injEq, and_true]
  constructor <;> apply BitVec.eq_of_toNat_eq <;> (simp only [BitVec.toNat_ofNat]; omega)

/-- A 32-bit value is the big-endian value of its bytes (R190). -/
theorem be32_bytes32 (v : BitVec 32) : be32 (v.extractLsb' 24 8) (v.extractLsb' 16 8) (v.extractLsb' 8 8)
    (v.extractLsb' 0 8) = v := by
  have h := v.isLt
  apply BitVec.eq_of_toNat_eq
  rw [be32_eq]
  simp only [BitVec.extractLsb'_toNat, BitVec.toNat_ofNat, Nat.shiftRight_eq_div_pow]
  omega

/-- The bytes of a big-endian value of four bytes are those bytes (R190). -/
theorem bytes32_be32 (a b c d : Byte) : bytes32 (be32 a b c d) = [a, b, c, d] := by
  have ha := a.isLt
  have hb := b.isLt
  have hc := c.isLt
  have hd := d.isLt
  rw [bytes32_eq, be32_eq]
  simp only [List.cons.injEq, and_true]
  refine ⟨?_, ?_, ?_, ?_⟩ <;> apply BitVec.eq_of_toNat_eq <;> (simp only [BitVec.toNat_ofNat]; omega)

@[simp] theorem bytes16_length (v : BitVec 16) : (bytes16 v).length = 2 := rfl
@[simp] theorem bytes32_length (v : BitVec 32) : (bytes32 v).length = 4 := rfl

end Sys2Proof.Machine
end

