-- ==== Sys2Proof/Laws/State.lean ====
section
/-! SUPPORT. What each write of one field, and each operation on the whole state, leaves in every field: true by
definition, for simp. -/

namespace Sys2Proof.Machine

section
variable (s : State) (v : Option DdpError)
@[simp] theorem setErr_maxWire : (s.setErr v).maxWire = s.maxWire := rfl
@[simp] theorem setErr_inbox : (s.setErr v).inbox = s.inbox := rfl
@[simp] theorem setErr_outbox : (s.setErr v).outbox = s.outbox := rfl
@[simp] theorem setErr_op : (s.setErr v).op = s.op := rfl
@[simp] theorem setErr_err : (s.setErr v).err = v := rfl
@[simp] theorem setErr_f : (s.setErr v).f = s.f := rfl
@[simp] theorem setErr_pay : (s.setErr v).pay = s.pay := rfl
@[simp] theorem setErr_wire : (s.setErr v).wire = s.wire := rfl
@[simp] theorem setErr_byteOut : (s.setErr v).byteOut = s.byteOut := rfl
@[simp] theorem setErr_halfOut : (s.setErr v).halfOut = s.halfOut := rfl
@[simp] theorem setErr_wordOut : (s.setErr v).wordOut = s.wordOut := rfl
@[simp] theorem setErr_sizeCode : (s.setErr v).sizeCode = s.sizeCode := rfl
@[simp] theorem setErr_sizeOut : (s.setErr v).sizeOut = s.sizeOut := rfl
@[simp] theorem setErr_bppOut : (s.setErr v).bppOut = s.bppOut := rfl
@[simp] theorem setErr_w : (s.setErr v).w = s.w := rfl
end

section
variable (s : State) (v : Ports)
@[simp] theorem setF_maxWire : (s.setF v).maxWire = s.maxWire := rfl
@[simp] theorem setF_inbox : (s.setF v).inbox = s.inbox := rfl
@[simp] theorem setF_outbox : (s.setF v).outbox = s.outbox := rfl
@[simp] theorem setF_op : (s.setF v).op = s.op := rfl
@[simp] theorem setF_err : (s.setF v).err = s.err := rfl
@[simp] theorem setF_f : (s.setF v).f = v := rfl
@[simp] theorem setF_pay : (s.setF v).pay = s.pay := rfl
@[simp] theorem setF_wire : (s.setF v).wire = s.wire := rfl
@[simp] theorem setF_byteOut : (s.setF v).byteOut = s.byteOut := rfl
@[simp] theorem setF_halfOut : (s.setF v).halfOut = s.halfOut := rfl
@[simp] theorem setF_wordOut : (s.setF v).wordOut = s.wordOut := rfl
@[simp] theorem setF_sizeCode : (s.setF v).sizeCode = s.sizeCode := rfl
@[simp] theorem setF_sizeOut : (s.setF v).sizeOut = s.sizeOut := rfl
@[simp] theorem setF_bppOut : (s.setF v).bppOut = s.bppOut := rfl
@[simp] theorem setF_w : (s.setF v).w = s.w := rfl
end

section
variable (s : State) (v : Bytes)
@[simp] theorem setPay_maxWire : (s.setPay v).maxWire = s.maxWire := rfl
@[simp] theorem setPay_inbox : (s.setPay v).inbox = s.inbox := rfl
@[simp] theorem setPay_outbox : (s.setPay v).outbox = s.outbox := rfl
@[simp] theorem setPay_op : (s.setPay v).op = s.op := rfl
@[simp] theorem setPay_err : (s.setPay v).err = s.err := rfl
@[simp] theorem setPay_f : (s.setPay v).f = s.f := rfl
@[simp] theorem setPay_pay : (s.setPay v).pay = v := rfl
@[simp] theorem setPay_wire : (s.setPay v).wire = s.wire := rfl
@[simp] theorem setPay_byteOut : (s.setPay v).byteOut = s.byteOut := rfl
@[simp] theorem setPay_halfOut : (s.setPay v).halfOut = s.halfOut := rfl
@[simp] theorem setPay_wordOut : (s.setPay v).wordOut = s.wordOut := rfl
@[simp] theorem setPay_sizeCode : (s.setPay v).sizeCode = s.sizeCode := rfl
@[simp] theorem setPay_sizeOut : (s.setPay v).sizeOut = s.sizeOut := rfl
@[simp] theorem setPay_bppOut : (s.setPay v).bppOut = s.bppOut := rfl
@[simp] theorem setPay_w : (s.setPay v).w = s.w := rfl
end

section
variable (s : State) (v : Bytes)
@[simp] theorem setWire_maxWire : (s.setWire v).maxWire = s.maxWire := rfl
@[simp] theorem setWire_inbox : (s.setWire v).inbox = s.inbox := rfl
@[simp] theorem setWire_outbox : (s.setWire v).outbox = s.outbox := rfl
@[simp] theorem setWire_op : (s.setWire v).op = s.op := rfl
@[simp] theorem setWire_err : (s.setWire v).err = s.err := rfl
@[simp] theorem setWire_f : (s.setWire v).f = s.f := rfl
@[simp] theorem setWire_pay : (s.setWire v).pay = s.pay := rfl
@[simp] theorem setWire_wire : (s.setWire v).wire = v := rfl
@[simp] theorem setWire_byteOut : (s.setWire v).byteOut = s.byteOut := rfl
@[simp] theorem setWire_halfOut : (s.setWire v).halfOut = s.halfOut := rfl
@[simp] theorem setWire_wordOut : (s.setWire v).wordOut = s.wordOut := rfl
@[simp] theorem setWire_sizeCode : (s.setWire v).sizeCode = s.sizeCode := rfl
@[simp] theorem setWire_sizeOut : (s.setWire v).sizeOut = s.sizeOut := rfl
@[simp] theorem setWire_bppOut : (s.setWire v).bppOut = s.bppOut := rfl
@[simp] theorem setWire_w : (s.setWire v).w = s.w := rfl
end

section
variable (s : State) (v : BitVec 8)
@[simp] theorem setByteOut_maxWire : (s.setByteOut v).maxWire = s.maxWire := rfl
@[simp] theorem setByteOut_inbox : (s.setByteOut v).inbox = s.inbox := rfl
@[simp] theorem setByteOut_outbox : (s.setByteOut v).outbox = s.outbox := rfl
@[simp] theorem setByteOut_op : (s.setByteOut v).op = s.op := rfl
@[simp] theorem setByteOut_err : (s.setByteOut v).err = s.err := rfl
@[simp] theorem setByteOut_f : (s.setByteOut v).f = s.f := rfl
@[simp] theorem setByteOut_pay : (s.setByteOut v).pay = s.pay := rfl
@[simp] theorem setByteOut_wire : (s.setByteOut v).wire = s.wire := rfl
@[simp] theorem setByteOut_byteOut : (s.setByteOut v).byteOut = v := rfl
@[simp] theorem setByteOut_halfOut : (s.setByteOut v).halfOut = s.halfOut := rfl
@[simp] theorem setByteOut_wordOut : (s.setByteOut v).wordOut = s.wordOut := rfl
@[simp] theorem setByteOut_sizeCode : (s.setByteOut v).sizeCode = s.sizeCode := rfl
@[simp] theorem setByteOut_sizeOut : (s.setByteOut v).sizeOut = s.sizeOut := rfl
@[simp] theorem setByteOut_bppOut : (s.setByteOut v).bppOut = s.bppOut := rfl
@[simp] theorem setByteOut_w : (s.setByteOut v).w = s.w := rfl
end

section
variable (s : State) (v : BitVec 16)
@[simp] theorem setHalfOut_maxWire : (s.setHalfOut v).maxWire = s.maxWire := rfl
@[simp] theorem setHalfOut_inbox : (s.setHalfOut v).inbox = s.inbox := rfl
@[simp] theorem setHalfOut_outbox : (s.setHalfOut v).outbox = s.outbox := rfl
@[simp] theorem setHalfOut_op : (s.setHalfOut v).op = s.op := rfl
@[simp] theorem setHalfOut_err : (s.setHalfOut v).err = s.err := rfl
@[simp] theorem setHalfOut_f : (s.setHalfOut v).f = s.f := rfl
@[simp] theorem setHalfOut_pay : (s.setHalfOut v).pay = s.pay := rfl
@[simp] theorem setHalfOut_wire : (s.setHalfOut v).wire = s.wire := rfl
@[simp] theorem setHalfOut_byteOut : (s.setHalfOut v).byteOut = s.byteOut := rfl
@[simp] theorem setHalfOut_halfOut : (s.setHalfOut v).halfOut = v := rfl
@[simp] theorem setHalfOut_wordOut : (s.setHalfOut v).wordOut = s.wordOut := rfl
@[simp] theorem setHalfOut_sizeCode : (s.setHalfOut v).sizeCode = s.sizeCode := rfl
@[simp] theorem setHalfOut_sizeOut : (s.setHalfOut v).sizeOut = s.sizeOut := rfl
@[simp] theorem setHalfOut_bppOut : (s.setHalfOut v).bppOut = s.bppOut := rfl
@[simp] theorem setHalfOut_w : (s.setHalfOut v).w = s.w := rfl
end

section
variable (s : State) (v : BitVec 32)
@[simp] theorem setWordOut_maxWire : (s.setWordOut v).maxWire = s.maxWire := rfl
@[simp] theorem setWordOut_inbox : (s.setWordOut v).inbox = s.inbox := rfl
@[simp] theorem setWordOut_outbox : (s.setWordOut v).outbox = s.outbox := rfl
@[simp] theorem setWordOut_op : (s.setWordOut v).op = s.op := rfl
@[simp] theorem setWordOut_err : (s.setWordOut v).err = s.err := rfl
@[simp] theorem setWordOut_f : (s.setWordOut v).f = s.f := rfl
@[simp] theorem setWordOut_pay : (s.setWordOut v).pay = s.pay := rfl
@[simp] theorem setWordOut_wire : (s.setWordOut v).wire = s.wire := rfl
@[simp] theorem setWordOut_byteOut : (s.setWordOut v).byteOut = s.byteOut := rfl
@[simp] theorem setWordOut_halfOut : (s.setWordOut v).halfOut = s.halfOut := rfl
@[simp] theorem setWordOut_wordOut : (s.setWordOut v).wordOut = v := rfl
@[simp] theorem setWordOut_sizeCode : (s.setWordOut v).sizeCode = s.sizeCode := rfl
@[simp] theorem setWordOut_sizeOut : (s.setWordOut v).sizeOut = s.sizeOut := rfl
@[simp] theorem setWordOut_bppOut : (s.setWordOut v).bppOut = s.bppOut := rfl
@[simp] theorem setWordOut_w : (s.setWordOut v).w = s.w := rfl
end

section
variable (s : State) (v : BitVec 3)
@[simp] theorem setSizeCode_maxWire : (s.setSizeCode v).maxWire = s.maxWire := rfl
@[simp] theorem setSizeCode_inbox : (s.setSizeCode v).inbox = s.inbox := rfl
@[simp] theorem setSizeCode_outbox : (s.setSizeCode v).outbox = s.outbox := rfl
@[simp] theorem setSizeCode_op : (s.setSizeCode v).op = s.op := rfl
@[simp] theorem setSizeCode_err : (s.setSizeCode v).err = s.err := rfl
@[simp] theorem setSizeCode_f : (s.setSizeCode v).f = s.f := rfl
@[simp] theorem setSizeCode_pay : (s.setSizeCode v).pay = s.pay := rfl
@[simp] theorem setSizeCode_wire : (s.setSizeCode v).wire = s.wire := rfl
@[simp] theorem setSizeCode_byteOut : (s.setSizeCode v).byteOut = s.byteOut := rfl
@[simp] theorem setSizeCode_halfOut : (s.setSizeCode v).halfOut = s.halfOut := rfl
@[simp] theorem setSizeCode_wordOut : (s.setSizeCode v).wordOut = s.wordOut := rfl
@[simp] theorem setSizeCode_sizeCode : (s.setSizeCode v).sizeCode = v := rfl
@[simp] theorem setSizeCode_sizeOut : (s.setSizeCode v).sizeOut = s.sizeOut := rfl
@[simp] theorem setSizeCode_bppOut : (s.setSizeCode v).bppOut = s.bppOut := rfl
@[simp] theorem setSizeCode_w : (s.setSizeCode v).w = s.w := rfl
end

section
variable (s : State) (v : Option (BitVec 3))
@[simp] theorem setSizeOut_maxWire : (s.setSizeOut v).maxWire = s.maxWire := rfl
@[simp] theorem setSizeOut_inbox : (s.setSizeOut v).inbox = s.inbox := rfl
@[simp] theorem setSizeOut_outbox : (s.setSizeOut v).outbox = s.outbox := rfl
@[simp] theorem setSizeOut_op : (s.setSizeOut v).op = s.op := rfl
@[simp] theorem setSizeOut_err : (s.setSizeOut v).err = s.err := rfl
@[simp] theorem setSizeOut_f : (s.setSizeOut v).f = s.f := rfl
@[simp] theorem setSizeOut_pay : (s.setSizeOut v).pay = s.pay := rfl
@[simp] theorem setSizeOut_wire : (s.setSizeOut v).wire = s.wire := rfl
@[simp] theorem setSizeOut_byteOut : (s.setSizeOut v).byteOut = s.byteOut := rfl
@[simp] theorem setSizeOut_halfOut : (s.setSizeOut v).halfOut = s.halfOut := rfl
@[simp] theorem setSizeOut_wordOut : (s.setSizeOut v).wordOut = s.wordOut := rfl
@[simp] theorem setSizeOut_sizeCode : (s.setSizeOut v).sizeCode = s.sizeCode := rfl
@[simp] theorem setSizeOut_sizeOut : (s.setSizeOut v).sizeOut = v := rfl
@[simp] theorem setSizeOut_bppOut : (s.setSizeOut v).bppOut = s.bppOut := rfl
@[simp] theorem setSizeOut_w : (s.setSizeOut v).w = s.w := rfl
end

section
variable (s : State) (v : Option (BitVec 8))
@[simp] theorem setBppOut_maxWire : (s.setBppOut v).maxWire = s.maxWire := rfl
@[simp] theorem setBppOut_inbox : (s.setBppOut v).inbox = s.inbox := rfl
@[simp] theorem setBppOut_outbox : (s.setBppOut v).outbox = s.outbox := rfl
@[simp] theorem setBppOut_op : (s.setBppOut v).op = s.op := rfl
@[simp] theorem setBppOut_err : (s.setBppOut v).err = s.err := rfl
@[simp] theorem setBppOut_f : (s.setBppOut v).f = s.f := rfl
@[simp] theorem setBppOut_pay : (s.setBppOut v).pay = s.pay := rfl
@[simp] theorem setBppOut_wire : (s.setBppOut v).wire = s.wire := rfl
@[simp] theorem setBppOut_byteOut : (s.setBppOut v).byteOut = s.byteOut := rfl
@[simp] theorem setBppOut_halfOut : (s.setBppOut v).halfOut = s.halfOut := rfl
@[simp] theorem setBppOut_wordOut : (s.setBppOut v).wordOut = s.wordOut := rfl
@[simp] theorem setBppOut_sizeCode : (s.setBppOut v).sizeCode = s.sizeCode := rfl
@[simp] theorem setBppOut_sizeOut : (s.setBppOut v).sizeOut = s.sizeOut := rfl
@[simp] theorem setBppOut_bppOut : (s.setBppOut v).bppOut = v := rfl
@[simp] theorem setBppOut_w : (s.setBppOut v).w = s.w := rfl
end

section
variable (s : State) (v : Bytes)
@[simp] theorem setW_maxWire : (s.setW v).maxWire = s.maxWire := rfl
@[simp] theorem setW_inbox : (s.setW v).inbox = s.inbox := rfl
@[simp] theorem setW_outbox : (s.setW v).outbox = s.outbox := rfl
@[simp] theorem setW_op : (s.setW v).op = s.op := rfl
@[simp] theorem setW_err : (s.setW v).err = s.err := rfl
@[simp] theorem setW_f : (s.setW v).f = s.f := rfl
@[simp] theorem setW_pay : (s.setW v).pay = s.pay := rfl
@[simp] theorem setW_wire : (s.setW v).wire = s.wire := rfl
@[simp] theorem setW_byteOut : (s.setW v).byteOut = s.byteOut := rfl
@[simp] theorem setW_halfOut : (s.setW v).halfOut = s.halfOut := rfl
@[simp] theorem setW_wordOut : (s.setW v).wordOut = s.wordOut := rfl
@[simp] theorem setW_sizeCode : (s.setW v).sizeCode = s.sizeCode := rfl
@[simp] theorem setW_sizeOut : (s.setW v).sizeOut = s.sizeOut := rfl
@[simp] theorem setW_bppOut : (s.setW v).bppOut = s.bppOut := rfl
@[simp] theorem setW_w : (s.setW v).w = v := rfl
end

section
variable (s : State)
@[simp] theorem respondDec_maxWire : (s.respondDec).maxWire = s.maxWire := rfl
@[simp] theorem respondDec_inbox : (s.respondDec).inbox = s.inbox := rfl
@[simp] theorem respondDec_outbox : (s.respondDec).outbox = s.outbox ++ [.dec s.err s.f s.pay] := rfl
@[simp] theorem respondDec_op : (s.respondDec).op = s.op := rfl
@[simp] theorem respondDec_err : (s.respondDec).err = s.err := rfl
@[simp] theorem respondDec_f : (s.respondDec).f = s.f := rfl
@[simp] theorem respondDec_pay : (s.respondDec).pay = s.pay := rfl
@[simp] theorem respondDec_wire : (s.respondDec).wire = s.wire := rfl
@[simp] theorem respondDec_byteOut : (s.respondDec).byteOut = s.byteOut := rfl
@[simp] theorem respondDec_halfOut : (s.respondDec).halfOut = s.halfOut := rfl
@[simp] theorem respondDec_wordOut : (s.respondDec).wordOut = s.wordOut := rfl
@[simp] theorem respondDec_sizeCode : (s.respondDec).sizeCode = s.sizeCode := rfl
@[simp] theorem respondDec_sizeOut : (s.respondDec).sizeOut = s.sizeOut := rfl
@[simp] theorem respondDec_bppOut : (s.respondDec).bppOut = s.bppOut := rfl
@[simp] theorem respondDec_w : (s.respondDec).w = s.w := rfl
end

section
variable (s : State)
@[simp] theorem respondEnc_maxWire : (s.respondEnc).maxWire = s.maxWire := rfl
@[simp] theorem respondEnc_inbox : (s.respondEnc).inbox = s.inbox := rfl
@[simp] theorem respondEnc_outbox : (s.respondEnc).outbox = s.outbox ++ [.enc s.err s.wire] := rfl
@[simp] theorem respondEnc_op : (s.respondEnc).op = s.op := rfl
@[simp] theorem respondEnc_err : (s.respondEnc).err = s.err := rfl
@[simp] theorem respondEnc_f : (s.respondEnc).f = s.f := rfl
@[simp] theorem respondEnc_pay : (s.respondEnc).pay = s.pay := rfl
@[simp] theorem respondEnc_wire : (s.respondEnc).wire = s.wire := rfl
@[simp] theorem respondEnc_byteOut : (s.respondEnc).byteOut = s.byteOut := rfl
@[simp] theorem respondEnc_halfOut : (s.respondEnc).halfOut = s.halfOut := rfl
@[simp] theorem respondEnc_wordOut : (s.respondEnc).wordOut = s.wordOut := rfl
@[simp] theorem respondEnc_sizeCode : (s.respondEnc).sizeCode = s.sizeCode := rfl
@[simp] theorem respondEnc_sizeOut : (s.respondEnc).sizeOut = s.sizeOut := rfl
@[simp] theorem respondEnc_bppOut : (s.respondEnc).bppOut = s.bppOut := rfl
@[simp] theorem respondEnc_w : (s.respondEnc).w = s.w := rfl
end

section
variable (s : State) (r : Request) (rest : List Request)
@[simp] theorem accept_maxWire : (s.accept r rest).maxWire = s.maxWire := rfl
@[simp] theorem accept_inbox : (s.accept r rest).inbox = rest := rfl
@[simp] theorem accept_outbox : (s.accept r rest).outbox = s.outbox := rfl
@[simp] theorem accept_op : (s.accept r rest).op = r.op := rfl
@[simp] theorem accept_err : (s.accept r rest).err = s.err := rfl
@[simp] theorem accept_f : (s.accept r rest).f = r.f := rfl
@[simp] theorem accept_pay : (s.accept r rest).pay = r.pay := rfl
@[simp] theorem accept_wire : (s.accept r rest).wire = r.wire := rfl
@[simp] theorem accept_byteOut : (s.accept r rest).byteOut = s.byteOut := rfl
@[simp] theorem accept_halfOut : (s.accept r rest).halfOut = s.halfOut := rfl
@[simp] theorem accept_wordOut : (s.accept r rest).wordOut = s.wordOut := rfl
@[simp] theorem accept_sizeCode : (s.accept r rest).sizeCode = s.sizeCode := rfl
@[simp] theorem accept_sizeOut : (s.accept r rest).sizeOut = s.sizeOut := rfl
@[simp] theorem accept_bppOut : (s.accept r rest).bppOut = s.bppOut := rfl
@[simp] theorem accept_w : (s.accept r rest).w = s.w := rfl
end

section
variable (s : State)
@[simp] theorem release_maxWire : (s.release).maxWire = s.maxWire := rfl
@[simp] theorem release_inbox : (s.release).inbox = s.inbox := rfl
@[simp] theorem release_outbox : (s.release).outbox = s.outbox := rfl
@[simp] theorem release_op : (s.release).op = 0 := rfl
@[simp] theorem release_err : (s.release).err = none := rfl
@[simp] theorem release_f : (s.release).f = Ports.zero := rfl
@[simp] theorem release_pay : (s.release).pay = [] := rfl
@[simp] theorem release_wire : (s.release).wire = [] := rfl
@[simp] theorem release_byteOut : (s.release).byteOut = s.byteOut := rfl
@[simp] theorem release_halfOut : (s.release).halfOut = s.halfOut := rfl
@[simp] theorem release_wordOut : (s.release).wordOut = s.wordOut := rfl
@[simp] theorem release_sizeCode : (s.release).sizeCode = s.sizeCode := rfl
@[simp] theorem release_sizeOut : (s.release).sizeOut = s.sizeOut := rfl
@[simp] theorem release_bppOut : (s.release).bppOut = s.bppOut := rfl
@[simp] theorem release_w : (s.release).w = s.w := rfl
end

/-! An error of `DEC` clears `F` and `PAY`; an error of `ENC` clears `WIRE` (R210). -/

section
variable (s : State)
@[simp] theorem raise_tooShort_maxWire : (s.raise .tooShort).maxWire = s.maxWire := rfl
@[simp] theorem raise_tooShort_inbox : (s.raise .tooShort).inbox = s.inbox := rfl
@[simp] theorem raise_tooShort_outbox : (s.raise .tooShort).outbox = s.outbox := rfl
@[simp] theorem raise_tooShort_op : (s.raise .tooShort).op = s.op := rfl
@[simp] theorem raise_tooShort_err : (s.raise .tooShort).err = some .tooShort := rfl
@[simp] theorem raise_tooShort_f : (s.raise .tooShort).f = Ports.zero := rfl
@[simp] theorem raise_tooShort_pay : (s.raise .tooShort).pay = [] := rfl
@[simp] theorem raise_tooShort_wire : (s.raise .tooShort).wire = s.wire := rfl
@[simp] theorem raise_tooShort_byteOut : (s.raise .tooShort).byteOut = s.byteOut := rfl
@[simp] theorem raise_tooShort_halfOut : (s.raise .tooShort).halfOut = s.halfOut := rfl
@[simp] theorem raise_tooShort_wordOut : (s.raise .tooShort).wordOut = s.wordOut := rfl
@[simp] theorem raise_tooShort_sizeCode : (s.raise .tooShort).sizeCode = s.sizeCode := rfl
@[simp] theorem raise_tooShort_sizeOut : (s.raise .tooShort).sizeOut = s.sizeOut := rfl
@[simp] theorem raise_tooShort_bppOut : (s.raise .tooShort).bppOut = s.bppOut := rfl
@[simp] theorem raise_tooShort_w : (s.raise .tooShort).w = s.w := rfl
end

section
variable (s : State)
@[simp] theorem raise_unknownSizeCode_maxWire : (s.raise .unknownSizeCode).maxWire = s.maxWire := rfl
@[simp] theorem raise_unknownSizeCode_inbox : (s.raise .unknownSizeCode).inbox = s.inbox := rfl
@[simp] theorem raise_unknownSizeCode_outbox : (s.raise .unknownSizeCode).outbox = s.outbox := rfl
@[simp] theorem raise_unknownSizeCode_op : (s.raise .unknownSizeCode).op = s.op := rfl
@[simp] theorem raise_unknownSizeCode_err : (s.raise .unknownSizeCode).err = some .unknownSizeCode := rfl
@[simp] theorem raise_unknownSizeCode_f : (s.raise .unknownSizeCode).f = Ports.zero := rfl
@[simp] theorem raise_unknownSizeCode_pay : (s.raise .unknownSizeCode).pay = [] := rfl
@[simp] theorem raise_unknownSizeCode_wire : (s.raise .unknownSizeCode).wire = s.wire := rfl
@[simp] theorem raise_unknownSizeCode_byteOut : (s.raise .unknownSizeCode).byteOut = s.byteOut := rfl
@[simp] theorem raise_unknownSizeCode_halfOut : (s.raise .unknownSizeCode).halfOut = s.halfOut := rfl
@[simp] theorem raise_unknownSizeCode_wordOut : (s.raise .unknownSizeCode).wordOut = s.wordOut := rfl
@[simp] theorem raise_unknownSizeCode_sizeCode : (s.raise .unknownSizeCode).sizeCode = s.sizeCode := rfl
@[simp] theorem raise_unknownSizeCode_sizeOut : (s.raise .unknownSizeCode).sizeOut = s.sizeOut := rfl
@[simp] theorem raise_unknownSizeCode_bppOut : (s.raise .unknownSizeCode).bppOut = s.bppOut := rfl
@[simp] theorem raise_unknownSizeCode_w : (s.raise .unknownSizeCode).w = s.w := rfl
end

section
variable (s : State)
@[simp] theorem raise_unsupportedBitsPerPixel_maxWire : (s.raise .unsupportedBitsPerPixel).maxWire = s.maxWire := rfl
@[simp] theorem raise_unsupportedBitsPerPixel_inbox : (s.raise .unsupportedBitsPerPixel).inbox = s.inbox := rfl
@[simp] theorem raise_unsupportedBitsPerPixel_outbox : (s.raise .unsupportedBitsPerPixel).outbox = s.outbox := rfl
@[simp] theorem raise_unsupportedBitsPerPixel_op : (s.raise .unsupportedBitsPerPixel).op = s.op := rfl
@[simp] theorem raise_unsupportedBitsPerPixel_err : (s.raise .unsupportedBitsPerPixel).err = some .unsupportedBitsPerPixel := rfl
@[simp] theorem raise_unsupportedBitsPerPixel_f : (s.raise .unsupportedBitsPerPixel).f = s.f := rfl
@[simp] theorem raise_unsupportedBitsPerPixel_pay : (s.raise .unsupportedBitsPerPixel).pay = s.pay := rfl
@[simp] theorem raise_unsupportedBitsPerPixel_wire : (s.raise .unsupportedBitsPerPixel).wire = [] := rfl
@[simp] theorem raise_unsupportedBitsPerPixel_byteOut : (s.raise .unsupportedBitsPerPixel).byteOut = s.byteOut := rfl
@[simp] theorem raise_unsupportedBitsPerPixel_halfOut : (s.raise .unsupportedBitsPerPixel).halfOut = s.halfOut := rfl
@[simp] theorem raise_unsupportedBitsPerPixel_wordOut : (s.raise .unsupportedBitsPerPixel).wordOut = s.wordOut := rfl
@[simp] theorem raise_unsupportedBitsPerPixel_sizeCode : (s.raise .unsupportedBitsPerPixel).sizeCode = s.sizeCode := rfl
@[simp] theorem raise_unsupportedBitsPerPixel_sizeOut : (s.raise .unsupportedBitsPerPixel).sizeOut = s.sizeOut := rfl
@[simp] theorem raise_unsupportedBitsPerPixel_bppOut : (s.raise .unsupportedBitsPerPixel).bppOut = s.bppOut := rfl
@[simp] theorem raise_unsupportedBitsPerPixel_w : (s.raise .unsupportedBitsPerPixel).w = s.w := rfl
end

section
variable (s : State)
@[simp] theorem raise_missingTimecode_maxWire : (s.raise .missingTimecode).maxWire = s.maxWire := rfl
@[simp] theorem raise_missingTimecode_inbox : (s.raise .missingTimecode).inbox = s.inbox := rfl
@[simp] theorem raise_missingTimecode_outbox : (s.raise .missingTimecode).outbox = s.outbox := rfl
@[simp] theorem raise_missingTimecode_op : (s.raise .missingTimecode).op = s.op := rfl
@[simp] theorem raise_missingTimecode_err : (s.raise .missingTimecode).err = some .missingTimecode := rfl
@[simp] theorem raise_missingTimecode_f : (s.raise .missingTimecode).f = s.f := rfl
@[simp] theorem raise_missingTimecode_pay : (s.raise .missingTimecode).pay = s.pay := rfl
@[simp] theorem raise_missingTimecode_wire : (s.raise .missingTimecode).wire = [] := rfl
@[simp] theorem raise_missingTimecode_byteOut : (s.raise .missingTimecode).byteOut = s.byteOut := rfl
@[simp] theorem raise_missingTimecode_halfOut : (s.raise .missingTimecode).halfOut = s.halfOut := rfl
@[simp] theorem raise_missingTimecode_wordOut : (s.raise .missingTimecode).wordOut = s.wordOut := rfl
@[simp] theorem raise_missingTimecode_sizeCode : (s.raise .missingTimecode).sizeCode = s.sizeCode := rfl
@[simp] theorem raise_missingTimecode_sizeOut : (s.raise .missingTimecode).sizeOut = s.sizeOut := rfl
@[simp] theorem raise_missingTimecode_bppOut : (s.raise .missingTimecode).bppOut = s.bppOut := rfl
@[simp] theorem raise_missingTimecode_w : (s.raise .missingTimecode).w = s.w := rfl
end

end Sys2Proof.Machine
end

