-- ==== Sys2Proof/Laws/Ops.lean ====
section
/-! SUPPORT. One lemma per shared operation that says once what it can do: checks, sequencing, loads after stores,
buffers as memory. -/

namespace Sys2Proof.Machine

/-! ## Checks and sequencing -/

theorem inWire_next_iff (s : State) (i n : Nat) (k t : State) :
    inWire s i n k = .next t ↔ i + n ≤ s.wire.length ∧ k = t := by
  unfold inWire
  split <;> simp [*]

theorem inWire_of_le {s : State} {i n : Nat} (k : State) (h : i + n ≤ s.wire.length) : inWire s i n k = .next k :=
  if_pos h

theorem atEndOfW_next_iff (s : State) (i : Nat) (k t : State) :
    atEndOfW s i k = .next t ↔ s.w.length = i ∧ k = t := by
  unfold atEndOfW
  split <;> simp [*]

theorem atEndOfW_of_eq {s : State} {i : Nat} (k : State) (h : s.w.length = i) : atEndOfW s i k = .next k := if_pos h

@[simp] theorem andThen_next (s : State) (k : State → Host.Outcome State Fault Refusal) :
    andThen (.next s) k = k s := rfl

theorem andThen_next_iff (o : Host.Outcome State Fault Refusal) (k : State → Host.Outcome State Fault Refusal)
    (t : State) : andThen o k = .next t ↔ ∃ s, o = .next s ∧ k s = .next t := by
  cases o <;> simp [andThen]

/-! ## Errors -/

/-- What a raise leaves (R210). -/
theorem raise_ofDec {e : DdpError} (s : State) (h : e.ofDec = true) :
    s.raise e = ((s.setErr (some e)).setF Ports.zero).setPay [] := by simp [State.raise, h]

theorem raise_ofEnc {e : DdpError} (s : State) (h : e.ofDec = false) :
    s.raise e = (s.setErr (some e)).setWire [] := by simp [State.raise, h]

/-! ## Buffers -/

theorem byteAt_of_lt {s : Bytes} {i : Nat} (h : i < s.length) : byteAt s i = s[i] := by
  simp [byteAt, h]

/-- The part before a store is unchanged by it (R190). -/
theorem byteAt_append_left {s r : Bytes} {i : Nat} (h : i < s.length) : byteAt (s ++ r) i = byteAt s i := by
  rw [byteAt, byteAt, List.getD_append _ _ _ _ h]

theorem byteAt_append_right (s r : Bytes) (i : Nat) : byteAt (s ++ r) (s.length + i) = byteAt r i := by
  rw [byteAt, byteAt, List.getD_append_right _ _ _ _ (Nat.le_add_right _ _), Nat.add_sub_cancel_left]

/-- A load of what a store appended (R190). -/
theorem get8_put8 (w more : Bytes) (v : BitVec 8) : get8 (put8 w w.length v ++ more) w.length = v := by
  simp [get8, put8, byteAt]

theorem get16be_put16be (w more : Bytes) (v : BitVec 16) :
    get16be (put16be w w.length v ++ more) w.length = v := by
  have h := fun i => byteAt_append_right w (bytes16 v ++ more) i
  simp only [get16be, put16be, List.append_assoc]
  have h0 := h 0
  rw [Nat.add_zero] at h0
  rw [h0, h 1]
  exact be16_bytes16 v

theorem get32be_put32be (w more : Bytes) (v : BitVec 32) :
    get32be (put32be w w.length v ++ more) w.length = v := by
  have h := fun i => byteAt_append_right w (bytes32 v ++ more) i
  simp only [get32be, put32be, List.append_assoc]
  have h0 := h 0
  rw [Nat.add_zero] at h0
  rw [h0, h 1, h 2, h 3]
  exact be32_bytes32 v

/-- Storing what was loaded emits the bytes of the frame (R190, load then store). -/
theorem put8_get8 (w s : Bytes) (i : Nat) : put8 w i (get8 s i) = w ++ [byteAt s i] := rfl

theorem put16be_get16be (w s : Bytes) (i : Nat) :
    put16be w i (get16be s i) = w ++ [byteAt s i, byteAt s (i + 1)] := by
  rw [put16be, get16be, bytes16_be16]

theorem put32be_get32be (w s : Bytes) (i : Nat) :
    put32be w i (get32be s i) = w ++ [byteAt s i, byteAt s (i + 1), byteAt s (i + 2), byteAt s (i + 3)] := by
  rw [put32be, get32be, bytes32_be32]

/-- The payload comes back from the frame it was appended to (R191). -/
theorem slice_append (w p : Bytes) : slice (append w p) w.length = p := by simp [slice, append]

/-- A frame is its first bytes and its payload (R191). -/
theorem append_slice (s : Bytes) (h : Nat) : append (s.take h) (slice s h) = s := List.take_append_drop h s

/-! ## Buffers as memory (R50, R51) -/

/-- A cell of a buffer is a position with its byte. -/
theorem mem_cellsFrom (b : Bytes) : ∀ (a i : Nat) (v : Byte),
    (i, v) ∈ cellsFrom a b ↔ a ≤ i ∧ b[i - a]? = some v := by
  induction b with
  | nil => simp [cellsFrom]
  | cons x xs ih =>
    intro a i v
    simp only [cellsFrom, List.mem_cons, Prod.mk.injEq, ih]
    constructor
    · rintro (⟨rfl, rfl⟩ | ⟨h1, h2⟩)
      · simp
      · obtain ⟨k, rfl⟩ : ∃ k, i = a + (k + 1) := ⟨i - a - 1, by omega⟩
        refine ⟨by omega, ?_⟩
        rw [show a + (k + 1) - a = k + 1 from by omega]
        rw [show a + (k + 1) - (a + 1) = k from by omega] at h2
        simpa using h2
    · rintro ⟨h1, h2⟩
      rcases Nat.eq_or_lt_of_le h1 with rfl | h
      · left; simpa [eq_comm] using h2
      · right
        obtain ⟨k, rfl⟩ : ∃ k, i = a + (k + 1) := ⟨i - a - 1, by omega⟩
        refine ⟨by omega, ?_⟩
        rw [show a + (k + 1) - (a + 1) = k from by omega]
        rw [show a + (k + 1) - a = k + 1 from by omega] at h2
        simpa using h2

/-- Reading a byte by its address is looking the address up in the buffer's cells; an unlisted address has no byte. -/
theorem mem_cells_iff (b : Bytes) (i : Nat) (v : Byte) : (i, v) ∈ cells b ↔ byteAt? b i = some v := by
  simp [cells, byteAt?, mem_cellsFrom]

theorem cellsFrom_wf (b : Bytes) : ∀ a : Nat, Memory.wf (cellsFrom a b) = true := by
  induction b with
  | nil => intro a; rfl
  | cons x xs ih =>
    intro a
    cases xs with
    | nil => rfl
    | cons y ys =>
      have h := ih (a + 1)
      simp only [cellsFrom] at h ⊢
      simp [Memory.wf, h]

/-- Every buffer, so every buffer a memory operation leaves, is memory in canonical form: addresses strictly rising. -/
theorem cells_wf (b : Bytes) : Memory.wf (cells b) = true := cellsFrom_wf b 0

theorem cellsFrom_injective : ∀ (b c : Bytes) (a : Nat), cellsFrom a b = cellsFrom a c → b = c := by
  intro b
  induction b with
  | nil => intro c a h; cases c <;> simp_all [cellsFrom]
  | cons x xs ih =>
    intro c a h
    cases c with
    | nil => simp [cellsFrom] at h
    | cons y ys =>
      simp only [cellsFrom, List.cons.injEq, Prod.mk.injEq, true_and] at h
      rw [h.1, ih ys (a + 1) h.2]

/-- Equal memories are equal data. -/
theorem cells_injective {b c : Bytes} (h : cells b = cells c) : b = c := cellsFrom_injective b c 0 h

/-- Every buffer of every state is in canonical form: no operation can leave it. -/
theorem memory_wf (s : State) : Memory.wf (cells s.wire) = true ∧ Memory.wf (cells s.pay) = true ∧
    Memory.wf (cells s.w) = true := ⟨cells_wf _, cells_wf _, cells_wf _⟩

/-- The memory after reset is in canonical form, and lists nothing. -/
theorem reset_cells : cells State.reset.wire = [] ∧ cells State.reset.pay = [] ∧ cells State.reset.w = [] := ⟨rfl, rfl, rfl⟩

end Sys2Proof.Machine
end

