-- ==== Sys2Proof/Laws/Codec.lean ====
section
/-! SUPPORT. What decoding a frame and encoding a packet can do, said once (R121, R141), and what the two operations
and a transaction make of it. -/

namespace Sys2Proof.Machine

/-! ## Decoding a frame -/

theorem decFrame_of_lt {w : Bytes} (h : w.length < 10) : decFrame w = .error .tooShort := by
  simp [decFrame, Config.hdrMin, h]

theorem decFrame_of_seven {w : Bytes} (h : 10 ≤ w.length) (hz : (unpackDtype (get8 w 2)).2.2 = 7) :
    decFrame w = .error .unknownSizeCode := by
  have hn : size2bpp (unpackDtype (get8 w 2)).2.2 = none := (size2bpp_none_iff _).2 hz
  simp [decFrame, Config.hdrMin, Nat.not_lt.2 h, hn]

/-- The ports of a frame with its timecode (R121 step 10, flag set). -/
def timedPorts (w : Bytes) (bpp : BitVec 8) : Ports :=
  { headerPorts w bpp with tcv := 1, sec := get16be w 10, frac := get16be w 12 }

/-- A frame long enough for its first check and with a size code: the rest depends on the timecode flag. -/
theorem decFrame_of_some {w : Bytes} {bpp : BitVec 8} (h : 10 ≤ w.length)
    (hz : size2bpp (unpackDtype (get8 w 2)).2.2 = some bpp) :
    decFrame w = if (headerPorts w bpp).tc = 1#1 then
        (if w.length < 14 then .error .tooShort else .ok (timedPorts w bpp, slice w 14))
      else .ok (headerPorts w bpp, slice w 10) := by
  rw [decFrame, if_neg (Nat.not_lt.2 h), hz]
  rfl

/-- A successful decoding, taken apart. -/
theorem decFrame_ok {w : Bytes} {f : Ports} {p : Bytes} (h : decFrame w = .ok (f, p)) :
    10 ≤ w.length ∧ ∃ bpp, size2bpp (unpackDtype (get8 w 2)).2.2 = some bpp ∧
      ((unpackFlags (get8 w 0)).2.1 = 1#1 ∧ 14 ≤ w.length ∧ f = timedPorts w bpp ∧ p = slice w 14 ∨
       (unpackFlags (get8 w 0)).2.1 ≠ 1#1 ∧ f = headerPorts w bpp ∧ p = slice w 10) := by
  rcases Nat.lt_or_ge w.length 10 with hl | hl
  · rw [decFrame_of_lt hl] at h; cases h
  refine ⟨hl, ?_⟩
  cases hz : size2bpp (unpackDtype (get8 w 2)).2.2 with
  | none => rw [decFrame_of_seven hl ((size2bpp_none_iff _).1 hz)] at h; cases h
  | some bpp =>
    refine ⟨bpp, rfl, ?_⟩
    rw [decFrame_of_some hl hz] at h
    split at h
    · rename_i htc
      split at h
      · cases h
      · rename_i hlen
        simp only [Except.ok.injEq, Prod.mk.injEq] at h
        exact .inl ⟨htc, Nat.not_lt.1 hlen, h.1.symm, h.2.symm⟩
    · rename_i htc
      simp only [Except.ok.injEq, Prod.mk.injEq] at h
      exact .inr ⟨htc, h.1.symm, h.2.symm⟩

/-- Only the two errors of `DEC` (R130). -/
theorem decFrame_error {w : Bytes} {e : DdpError} (h : decFrame w = .error e) : e.ofDec = true := by
  rcases Nat.lt_or_ge w.length 10 with hl | hl
  · rw [decFrame_of_lt hl] at h; cases h; rfl
  cases hz : size2bpp (unpackDtype (get8 w 2)).2.2 with
  | none => rw [decFrame_of_seven hl ((size2bpp_none_iff _).1 hz)] at h; cases h; rfl
  | some bpp =>
    rw [decFrame_of_some hl hz] at h
    split at h
    · split at h
      · cases h; rfl
      · cases h
    · cases h

/-! ## Encoding a packet -/

/-- Bytes 10 to 13 (R141 step 6). -/
def timedBytes (f : Ports) (z : BitVec 3) : Bytes := headerBytes f z ++ (bytes16 f.sec ++ bytes16 f.frac)

theorem encPacket_of_none {f : Ports} (p : Bytes) (h : bpp2size f.bpp = none) :
    encPacket f p = .error .unsupportedBitsPerPixel := by simp [encPacket, h]

theorem encPacket_of_some {f : Ports} {z : BitVec 3} (p : Bytes) (h : bpp2size f.bpp = some z) :
    encPacket f p = if f.tc = 1#1 then
        (if f.tcv = 0#1 then .error .missingTimecode else .ok (timedBytes f z ++ p))
      else .ok (headerBytes f z ++ p) := by
  simp [encPacket, h, timedBytes, put16be, append]

/-- A successful encoding, taken apart. -/
theorem encPacket_ok {f : Ports} {p w : Bytes} (h : encPacket f p = .ok w) :
    ∃ z, bpp2size f.bpp = some z ∧
      (f.tc = 1#1 ∧ f.tcv = 1#1 ∧ w = timedBytes f z ++ p ∨ f.tc ≠ 1#1 ∧ w = headerBytes f z ++ p) := by
  cases hz : bpp2size f.bpp with
  | none => rw [encPacket_of_none p hz] at h; cases h
  | some z =>
    refine ⟨z, rfl, ?_⟩
    rw [encPacket_of_some p hz] at h
    split at h
    · rename_i htc
      split at h
      · cases h
      · rename_i htcv
        have h1 : ∀ x : BitVec 1, x ≠ 0#1 → x = 1#1 := by decide
        exact .inl ⟨htc, h1 _ htcv, by simpa [eq_comm] using h⟩
    · rename_i htc
      exact .inr ⟨htc, by simpa [eq_comm] using h⟩

/-- Only the two errors of `ENC` (R149). -/
theorem encPacket_error {f : Ports} {p : Bytes} {e : DdpError} (h : encPacket f p = .error e) : e.ofDec = false := by
  cases hz : bpp2size f.bpp with
  | none => rw [encPacket_of_none p hz] at h; cases h; rfl
  | some z =>
    rw [encPacket_of_some p hz] at h
    split at h
    · split at h
      · cases h; rfl
      · cases h
    · cases h

theorem headerBytes_eq (f : Ports) (z : BitVec 3) : headerBytes f z =
    packFlags f.ver f.tc f.st f.rp f.qy f.pu :: packSeq f.seq :: packDtype f.std f.type z :: f.id ::
      (bytes32 f.offset ++ bytes16 f.length) := rfl

@[simp] theorem headerBytes_length (f : Ports) (z : BitVec 3) : (headerBytes f z).length = 10 := rfl
@[simp] theorem timedBytes_length (f : Ports) (z : BitVec 3) : (timedBytes f z).length = 14 := rfl

/-! ## The two operations -/

/-- The results of `DEC` on a frame: `ERR`, `F`, `PAY`. -/
def decResult (w : Bytes) : Option DdpError × Ports × Bytes :=
  match decFrame w with
  | .ok (f, p) => (none, f, p)
  | .error e => (some e, Ports.zero, [])

/-- The results of `ENC` on a packet: `ERR`, `WIRE`. -/
def encResult (f : Ports) (p : Bytes) : Option DdpError × Bytes :=
  match encPacket f p with
  | .ok w => (none, w)
  | .error e => (some e, [])

/-- `DEC` always answers, writes `ERR`, `F`, `PAY`, and changes nothing else (R59, R130). -/
theorem exec_dec (s : State) : exec .dec s =
    .next { s with err := (decResult s.wire).1, f := (decResult s.wire).2.1, pay := (decResult s.wire).2.2,
                   outbox := s.outbox ++ [.dec (decResult s.wire).1 (decResult s.wire).2.1 (decResult s.wire).2.2] } := by
  simp only [exec, execDec, decResult]
  cases h : decFrame s.wire with
  | ok r => rfl
  | error e => simp only [raise_ofDec s (decFrame_error h)]; rfl

/-- `ENC` always answers, writes `ERR`, `WIRE`, and changes nothing else (R59, R149). -/
theorem exec_enc (s : State) : exec .enc s =
    .next { s with err := (encResult s.f s.pay).1, wire := (encResult s.f s.pay).2,
                   outbox := s.outbox ++ [.enc (encResult s.f s.pay).1 (encResult s.f s.pay).2] } := by
  simp only [exec, execEnc, encResult]
  cases h : encPacket s.f s.pay with
  | ok r => rfl
  | error e => simp only [raise_ofEnc s (encPacket_error h)]; rfl

/-- The response a request gets. -/
def answerOf (r : Request) : Response :=
  if r.op = 0#1 then .dec (decResult r.wire).1 (decResult r.wire).2.1 (decResult r.wire).2.2
  else .enc (encResult r.f r.pay).1 (encResult r.f r.pay).2

/-- An admitted request is answered and gone; nothing else is left (R59, R34). -/
theorem transact_eq (s : State) (r : Request) (rest : List Request) : transact s r rest =
    .next { s with inbox := rest, outbox := s.outbox ++ [answerOf r], op := 0, err := none, f := Ports.zero, pay := [],
                   wire := [] } := by
  by_cases h : r.op = 0#1
  · simp [transact, decodeOp, h, exec_dec, answerOf, State.release, State.accept]
  · simp [transact, decodeOp, h, exec_enc, answerOf, State.release, State.accept]

/-- The next transaction, taken apart: wait, or answer an admitted request. -/
theorem nextTransaction_next {s t : State} (h : nextTransaction s = .next t) :
    s.inbox = [] ∧ t = s ∨ ∃ r rest, s.inbox = r :: rest ∧ admitted s.maxWire r = true ∧ transact s r rest = .next t := by
  unfold nextTransaction at h
  split at h
  · rename_i hi; cases h; exact .inl ⟨hi, rfl⟩
  · rename_i r rest hi
    split at h
    · rename_i ha; exact .inr ⟨r, rest, hi, ha, h⟩
    · cases h

end Sys2Proof.Machine
end

