-- ==== Sys2Proof/Laws/Inverse.lean ====
section
/-! SUPPORT. The operations obey the inverse laws R170, R190, R191. -/

namespace Sys2Proof.Machine

theorem marshallerInverseLaws_hold : marshallerInverseLaws :=
  ⟨unpackFlags_packFlags, unpackSeq_packSeq, unpackDtype_packDtype, by decide, by decide, packFlags_unpackFlags,
    packSeq_unpackSeq, packDtype_unpackDtype⟩

/-- What lies below the end of `w` is read as before, whatever follows. -/
theorem get8_append_left (w x t : Bytes) {j : Nat} (h : j < w.length) : get8 (w ++ x ++ t) j = get8 w j := by
  rw [List.append_assoc]
  exact byteAt_append_left h

theorem storeLoadLaws_hold : storeLoadLaws := by
  rintro w t _ rfl
  exact ⟨get8_put8 w t, get16be_put16be w t, get32be_put32be w t, fun _ hj =>
    ⟨fun v => get8_append_left w [v] t hj, fun v => get8_append_left w (bytes16 v) t hj,
      fun v => get8_append_left w (bytes32 v) t hj⟩⟩

/-- The first byte of what remains from index `i` on. -/
theorem drop_eq_byteAt_cons {s : Bytes} {i : Nat} (h : i < s.length) : s.drop i = byteAt s i :: s.drop (i + 1) := by
  rw [byteAt_of_lt h]
  exact List.drop_eq_getElem_cons h

theorem loadStoreLaws_hold : loadStoreLaws := by
  refine fun w s i => ⟨fun h => ?_, fun h => ?_, fun h => ?_⟩
  · rw [put8_get8, drop_eq_byteAt_cons (by omega)]
    rfl
  · rw [put16be_get16be, drop_eq_byteAt_cons (by omega), drop_eq_byteAt_cons (by omega)]
    rfl
  · rw [put32be_get32be, drop_eq_byteAt_cons (by omega), drop_eq_byteAt_cons (by omega),
      drop_eq_byteAt_cons (by omega), drop_eq_byteAt_cons (by omega)]
    rfl

theorem sliceAppendLaws_hold : sliceAppendLaws := ⟨slice_append, fun s h _ => append_slice s h⟩

end Sys2Proof.Machine
end

