-- ==== Sys2Proof/Laws/PerInstr.lean ====
section
/-! SUPPORT. Per instruction: decoding its code gives it back, when it is well formed. -/

namespace Sys2Proof.Laws.RoundTrip

open Sys2Proof Sys2Proof.Machine

/-- The instruction's code decodes to the instruction. -/
def Statement (i : Instr) : Prop := i.wf = true → decode (encode i) = .ok i

theorem dec : Statement .dec := fun _ => by decide
theorem enc : Statement .enc := fun _ => by decide
theorem unpackFlags (b) : Statement (.unpackFlags b) := fun _ => rfl

theorem packFlags_fields : ∀ (ver : BitVec 2) (tc st rp qy pu : BitVec 1),
    decodeBits .packFlags 0 [ver ++ (0#1 ++ (tc ++ (st ++ (rp ++ (qy ++ pu)))))] =
      .ok (.packFlags ver tc st rp qy pu) := by decide
theorem packFlags (ver tc st rp qy pu) : Statement (.packFlags ver tc st rp qy pu) :=
  fun _ => packFlags_fields ver tc st rp qy pu

theorem unpackSeq (b) : Statement (.unpackSeq b) := fun _ => rfl

theorem packSeq_fields : ∀ seq : BitVec 4, decodeBits .packSeq 0 [0#4 ++ seq] = .ok (.packSeq seq) := by decide
theorem packSeq (seq) : Statement (.packSeq seq) := fun _ => packSeq_fields seq

theorem unpackDtype (b) : Statement (.unpackDtype b) := fun _ => rfl

theorem size2bpp_fields : ∀ z : BitVec 3, decodeBits .size2bpp 0 [0#5 ++ z] = .ok (.size2bpp z) := by decide
theorem size2bpp (z) : Statement (.size2bpp z) := fun _ => size2bpp_fields z

theorem bpp2size (v) : Statement (.bpp2size v) := fun _ => rfl

theorem packDtype_fields : ∀ (std : BitVec 1) (type z : BitVec 3), z.toNat ≤ 6 →
    decodeBits .packDtype 0 [dtypeByte (~~~ std) 0 type z] = .ok (.packDtype std type z) := by decide
theorem packDtype (std type z) : Statement (.packDtype std type z) :=
  fun h => packDtype_fields std type z (of_decide_eq_true h)

theorem get8 (i) : Statement (.get8 i) := fun h => if_pos h
theorem get16be (i) : Statement (.get16be i) := fun h => if_pos h
theorem get32be (i) : Statement (.get32be i) := fun h => if_pos h
theorem put8 (i v) : Statement (.put8 i v) := fun h => if_pos h
theorem put16be (i v) : Statement (.put16be i v) := fun h =>
  (if_pos h).trans (congrArg (fun x => Except.ok (Instr.put16be i x)) (be16_bytes16 v))
theorem put32be (i v) : Statement (.put32be i v) := fun h =>
  (if_pos h).trans (congrArg (fun x => Except.ok (Instr.put32be i x)) (be32_bytes32 v))
theorem slice (h) : Statement (.slice h) := fun hw => if_pos hw
theorem append : Statement .append := fun _ => rfl

theorem wireByte0 (b) : Statement (.wireByte0 b) := fun _ => rfl
theorem wireByte1 (b) : Statement (.wireByte1 b) := fun _ => rfl
theorem wireByte2 (b) : Statement (.wireByte2 b) := fun _ => rfl
theorem wireByte3 (id) : Statement (.wireByte3 id) := fun _ => rfl
theorem wireBytes4to7 (v) : Statement (.wireBytes4to7 v) := fun _ =>
  congrArg (fun x => Except.ok (Instr.wireBytes4to7 x)) (be32_bytes32 v)
theorem wireBytes8to9 (v) : Statement (.wireBytes8to9 v) := fun _ =>
  congrArg (fun x => Except.ok (Instr.wireBytes8to9 x)) (be16_bytes16 v)

/-- The halves of a big-endian value of four bytes. -/
theorem be32_halves (a b c d : Byte) :
    (be32 a b c d).extractLsb' 16 16 = be16 a b ∧ (be32 a b c d).extractLsb' 0 16 = be16 c d := by
  have ha := a.isLt
  have hb := b.isLt
  have hc := c.isLt
  have hd := d.isLt
  constructor <;> apply BitVec.eq_of_toNat_eq <;>
    (rw [be32_eq, be16_eq]
     simp only [BitVec.extractLsb'_toNat, BitVec.toNat_ofNat, Nat.shiftRight_eq_div_pow]
     omega)

theorem wireBytes10to13 (sec frac) : Statement (.wireBytes10to13 sec frac) := fun _ => by
  have h := be32_halves (sec.extractLsb' 8 8) (sec.extractLsb' 0 8) (frac.extractLsb' 8 8) (frac.extractLsb' 0 8)
  rw [be16_bytes16, be16_bytes16] at h
  exact congrArg Except.ok (congrArg₂ Instr.wireBytes10to13 h.1 h.2)

theorem wirePayload (p) : Statement (.wirePayload p) := fun _ => rfl

/-- Byte 2 gives back the size code and the letters it was written from (R84). -/
theorem sizeRow_dtypeByte (mk : BitVec 1 → BitVec 1 → BitVec 3 → Instr) : ∀ (n x : BitVec 1) (t z : BitVec 3),
    sizeRow z (dtypeByte n x t z) mk = .ok (mk n x t) := by
  have hz : ∀ (n x : BitVec 1) (t z : BitVec 3), fldSize.unpack (dtypeByte n x t z) = z ∧
      (dtypeByte n x t z).extractLsb' 7 1 = n ∧ (dtypeByte n x t z).extractLsb' 6 1 = x ∧
      (dtypeByte n x t z).extractLsb' 3 3 = t := by decide
  intro n x t z
  obtain ⟨h1, h2, h3, h4⟩ := hz n x t z
  rw [sizeRow, h1, h2, h3, h4, beq_self_eq_true]
  rfl

theorem sizeCode0 (n x t) : Statement (.sizeCode0 n x t) := fun _ => sizeRow_dtypeByte .sizeCode0 n x t 0
theorem sizeCode1 (n x t) : Statement (.sizeCode1 n x t) := fun _ => sizeRow_dtypeByte .sizeCode1 n x t 1
theorem sizeCode2 (n x t) : Statement (.sizeCode2 n x t) := fun _ => sizeRow_dtypeByte .sizeCode2 n x t 2
theorem sizeCode3 (n x t) : Statement (.sizeCode3 n x t) := fun _ => sizeRow_dtypeByte .sizeCode3 n x t 3
theorem sizeCode4 (n x t) : Statement (.sizeCode4 n x t) := fun _ => sizeRow_dtypeByte .sizeCode4 n x t 4
theorem sizeCode5 (n x t) : Statement (.sizeCode5 n x t) := fun _ => sizeRow_dtypeByte .sizeCode5 n x t 5
theorem sizeCode6 (n x t) : Statement (.sizeCode6 n x t) := fun _ => sizeRow_dtypeByte .sizeCode6 n x t 6
theorem sizeCode7 (n x t) : Statement (.sizeCode7 n x t) := fun _ => sizeRow_dtypeByte .sizeCode7 n x t 7

theorem errOk : Statement .errOk := fun _ => rfl
theorem errTooShort : Statement .errTooShort := fun _ => rfl
theorem errUnknownSizeCode : Statement .errUnknownSizeCode := fun _ => rfl
theorem errUnsupportedBitsPerPixel : Statement .errUnsupportedBitsPerPixel := fun _ => rfl
theorem errMissingTimecode : Statement .errMissingTimecode := fun _ => rfl

end Sys2Proof.Laws.RoundTrip
end

