-- ==== Sys2Proof/Tests/Slice0.lean ====
section
/-! SUPPORT. Tests. Expected values come from the spec: the source's own examples (SV-1 to SV-4), the vectors DV-S, DV-M,
DV-D, DV-E of spec/95_validation_vectors.md, and words written out from the patterns of R82 to R92, R99, R101. Then one
witness for each statement with hypotheses, at the values where its clauses meet. -/

namespace Sys2Proof.Tests

open Sys2Proof Sys2Proof.Machine Sys2Proof.SpecForm

/-! ## Helpers -/

/-- A state with `WIRE` given, everything else as after reset. -/
def onWire (w : Bytes) : State := { State.reset with wire := w }

/-- A state with a packet given, everything else as after reset. -/
def onPacket (f : Ports) (p : Bytes) : State := { State.reset with f := f, pay := p }

/-- A state with an output under construction given. -/
def onOutput (w : Bytes) : State := { State.reset with w := w }

/-- The next state, if there is one. -/
def after (o : Host.Outcome State Fault Refusal) : Option State :=
  match o with
  | .next s => some s
  | .fault _ => none
  | .refused _ => none

/-- `ERR`, `F`, `PAY` after `DEC` of a frame. -/
def decOf (w : Bytes) : Option (Option DdpError × Ports × Bytes) :=
  (after (exec .dec (onWire w))).map fun s => (s.err, s.f, s.pay)

/-- `ERR`, `WIRE` after `ENC` of a packet. -/
def encOf (f : Ports) (p : Bytes) : Option (Option DdpError × Bytes) :=
  (after (exec .enc (onPacket f p))).map fun s => (s.err, s.wire)

/-- The frame of SV-1. -/
def sv1 : Bytes := [0x40, 0x0F, 0x92, 0x01, 0x45, 0x67, 0x89, 0x10, 0x10, 0x11]

/-- The packet of SV-1. -/
def sv1Packet : Ports :=
  { Ports.zero with ver := 1, type := 2, bpp := 4, seq := 15, id := 1, offset := 1164413200, length := 4113 }

/-- The frame of SV-2. -/
def sv2 : Bytes := [0x50, 0x0F, 0x92, 0x01, 0x45, 0x67, 0x89, 0x10, 0x10, 0x11, 0x10, 0x11, 0x11, 0x10]

/-- The packet of SV-2. -/
def sv2Packet : Ports := { sv1Packet with tc := 1, tcv := 1, sec := 4113, frac := 4368 }

/-- The frame of DV-D19. -/
def frag : Bytes := [0x41, 0x01, 0x0B, 0x01, 0, 0, 0, 0, 0, 0x03, 0xFF, 0x00, 0x80]

/-- The frame of DV-D38, DV-D19 with its six reserved bits set. -/
def fragReserved : Bytes := [0x61, 0xF1, 0x4B, 0x01, 0, 0, 0, 0, 0, 0x03, 0xFF, 0x00, 0x80]

/-- The packet of DV-E13. -/
def e13 : Ports :=
  { ver := 1, tc := 1, st := 0, rp := 0, qy := 0, pu := 1, std := 1, type := 1, bpp := 24, seq := 2, id := 2,
    offset := 480, length := 6, tcv := 1, sec := 42, frac := 32768 }

/-! ## Well-formedness: an ill-formed term for each check (R168, R186, R188) -/

theorem test_wf_refuses_index8 : (Instr.get8 4).wf = false ∧ (Instr.put8 4 0).wf = false := by decide
theorem test_wf_refuses_index16 : (Instr.get16be 9).wf = false ∧ (Instr.put16be 14 0).wf = false := by decide
theorem test_wf_refuses_index32 : (Instr.get32be 8).wf = false ∧ (Instr.put32be 0 0).wf = false := by decide
theorem test_wf_refuses_header_length : (Instr.slice 11).wf = false := by decide
theorem test_wf_refuses_size_seven : (Instr.packDtype 0 0 7).wf = false := by decide
theorem test_wf_accepts_bounds : (Instr.get8 3).wf = true ∧ (Instr.get16be 12).wf = true ∧ (Instr.slice 14).wf = true ∧
    (Instr.packDtype 0 0 6).wf = true := by decide

/-! ## Decoding: every row by a word written out from its pattern -/

theorem test_decode_command : decode ⟨.dec, 0, [0b0#8]⟩ = .ok .dec ∧ decode ⟨.enc, 0, [0b1#8]⟩ = .ok .enc := by decide

theorem test_decode_marshaller_flags_seq :
    decode ⟨.unpackFlags, 0, [0b01_0_1_0_0_0_0#8]⟩ = .ok (.unpackFlags 0x50) ∧
    decode ⟨.packFlags, 0, [0b10_0_0_1_0_1_0#8]⟩ = .ok (.packFlags 2 0 1 0 1 0) ∧
    decode ⟨.unpackSeq, 0, [0b1010_1011#8]⟩ = .ok (.unpackSeq 0xAB) ∧
    decode ⟨.packSeq, 0, [0b0000_1001#8]⟩ = .ok (.packSeq 9) := by decide

theorem test_decode_marshaller_dtype :
    decode ⟨.unpackDtype, 0, [0b1_0_010_010#8]⟩ = .ok (.unpackDtype 0x92) ∧
    decode ⟨.size2bpp, 0, [0b101#8]⟩ = .ok (.size2bpp 5) ∧
    decode ⟨.bpp2size, 0, [0b00011000#8]⟩ = .ok (.bpp2size 24) ∧
    decode ⟨.packDtype, 0, [0b0_0_001_101#8]⟩ = .ok (.packDtype 1 1 5) := by decide

theorem test_decode_serializer :
    decode ⟨.get8, 3, []⟩ = .ok (.get8 3) ∧ decode ⟨.get16be, 8, []⟩ = .ok (.get16be 8) ∧
    decode ⟨.get32be, 4, []⟩ = .ok (.get32be 4) ∧ decode ⟨.put8, 0, [0x40]⟩ = .ok (.put8 0 0x40) ∧
    decode ⟨.put16be, 10, [0x80, 0x00]⟩ = .ok (.put16be 10 32768) ∧
    decode ⟨.put32be, 4, [0x00, 0x00, 0x01, 0xE0]⟩ = .ok (.put32be 4 480) ∧
    decode ⟨.slice, 14, []⟩ = .ok (.slice 14) ∧ decode ⟨.append, 0, []⟩ = .ok .append := by decide

theorem test_decode_wire :
    decode ⟨.wireByte0, 0, [0b01_0_1_0_0_0_1#8]⟩ = .ok (.wireByte0 0x51) ∧
    decode ⟨.wireByte1, 0, [0b0000_1111#8]⟩ = .ok (.wireByte1 0x0F) ∧
    decode ⟨.wireByte2, 0, [0b1_0_010_010#8]⟩ = .ok (.wireByte2 0x92) ∧
    decode ⟨.wireByte3, 0, [0xA5]⟩ = .ok (.wireByte3 165) ∧
    decode ⟨.wireBytes4to7, 0, [0x45, 0x67, 0x89, 0x10]⟩ = .ok (.wireBytes4to7 1164413200) ∧
    decode ⟨.wireBytes8to9, 0, [0x10, 0x11]⟩ = .ok (.wireBytes8to9 4113) ∧
    decode ⟨.wireBytes10to13, 0, [0x10, 0x11, 0x11, 0x10]⟩ = .ok (.wireBytes10to13 4113 4368) ∧
    decode ⟨.wirePayload, 0, [0xFF, 0x00, 0x80]⟩ = .ok (.wirePayload [0xFF, 0x00, 0x80]) := by decide

theorem test_decode_size_codes :
    decode ⟨.sizeCode0, 0, [0b1_0_101_000#8]⟩ = .ok (.sizeCode0 1 0 5) ∧
    decode ⟨.sizeCode1, 0, [0b0_1_101_001#8]⟩ = .ok (.sizeCode1 0 1 5) ∧
    decode ⟨.sizeCode2, 0, [0b1_0_010_010#8]⟩ = .ok (.sizeCode2 1 0 2) ∧
    decode ⟨.sizeCode3, 0, [0b0_1_001_011#8]⟩ = .ok (.sizeCode3 0 1 1) ∧
    decode ⟨.sizeCode4, 0, [0b0_0_110_100#8]⟩ = .ok (.sizeCode4 0 0 6) ∧
    decode ⟨.sizeCode5, 0, [0b0_0_001_101#8]⟩ = .ok (.sizeCode5 0 0 1) ∧
    decode ⟨.sizeCode6, 0, [0b0_1_111_110#8]⟩ = .ok (.sizeCode6 0 1 7) ∧
    decode ⟨.sizeCode7, 0, [0b0_1_000_111#8]⟩ = .ok (.sizeCode7 0 1 0) := by decide

theorem test_decode_status :
    decode ⟨.errOk, 0, [0]⟩ = .ok .errOk ∧ decode ⟨.errTooShort, 0, [1]⟩ = .ok .errTooShort ∧
    decode ⟨.errUnknownSizeCode, 0, [2]⟩ = .ok .errUnknownSizeCode ∧
    decode ⟨.errUnsupportedBitsPerPixel, 0, [3]⟩ = .ok .errUnsupportedBitsPerPixel ∧
    decode ⟨.errMissingTimecode, 0, [4]⟩ = .ok .errMissingTimecode := by decide

theorem test_decode_rejects_by_name :
    decode ⟨.packSeq, 0, [0x19]⟩ = .error .fixedBits ∧ decode ⟨.packDtype, 0, [0x07]⟩ = .error .illegalOperand ∧
    decode ⟨.get16be, 9, []⟩ = .error .wrongIndex ∧ decode ⟨.wireBytes8to9, 0, [0x10]⟩ = .error .wrongLength ∧
    decode ⟨.errOk, 0, [5]⟩ = .error .fixedBits := by decide

/-- The masks of the layout table (R160) are disjoint and cover their bytes: their sum is 255 in each of bytes 0, 1, 2. -/
theorem test_layout_covers_each_byte :
    ([0, 1, 2].map fun k => ((layoutMasks.filter fun m => m.1 == k).map fun m => m.2.toNat).sum) = [255, 255, 255] ∧
    (layoutMasks.Pairwise fun m n => m.1 ≠ n.1 ∨ m.2 &&& n.2 = 0) := by decide

/-! ## Fetching: the command after reset is the bit `OP` (R37, R99) -/

theorem test_fetch_dec : decodeTableWord 8 0 = some .dec ∧
    (after (step (State.reset.withFetchWord 8 0))).map (fun s => s.outbox) =
      some [.dec (some .tooShort) Ports.zero []] := by decide

theorem test_fetch_enc : decodeTableWord 8 1 = some .enc ∧
    (after (step (State.reset.withFetchWord 8 1))).map (fun s => s.outbox) =
      some [.enc none [0, 0, 0x80, 0, 0, 0, 0, 0, 0, 0]] := by decide

theorem test_no_wider_command : decodeTableWord 0 0 = none ∧ decodeTableWord 16 1 = none := by decide

/-! ## DEC and ENC -/

/-- SV-1, SV-2: the source's two examples. -/
theorem test_dec_source_examples : decOf sv1 = some (none, sv1Packet, []) ∧ decOf sv2 = some (none, sv2Packet, []) := by
  decide

/-- DV-D1, D5, D6, D13: the empty buffer, one byte short of the timecode, two defects, all bits set. -/
theorem test_dec_edges : decOf [] = some (some .tooShort, Ports.zero, []) ∧
    decOf (sv2.take 13) = some (some .tooShort, Ports.zero, []) ∧
    decOf [0xFF, 0xFF, 0xFF, 0xFF, 0xFF, 0xFF, 0xFF, 0xFF, 0xFF, 0xFF] = some (some .unknownSizeCode, Ports.zero, []) ∧
    decOf ([0xFF, 0xFF, 0xFE] ++ List.replicate 11 0xFF) = some (none,
      { ver := 3, tc := 1, st := 1, rp := 1, qy := 1, pu := 1, std := 0, type := 7, bpp := 32, seq := 15, id := 255,
        offset := 4294967295, length := 65535, tcv := 1, sec := 65535, frac := 65535 }, []) := by decide

/-- DV-E13, SV-1, DV-E3: a packet with timecode and payload, the source's first example, every port at its maximum but
`STD`. -/
theorem test_enc_frames : encOf e13 [1, 2, 3, 4, 5, 6] = some (none,
      [0x51, 0x02, 0x0D, 0x02, 0, 0, 0x01, 0xE0, 0, 0x06] ++ [0, 0x2A, 0x80, 0, 1, 2, 3, 4, 5, 6]) ∧
    encOf sv1Packet [] = some (none, sv1) ∧
    encOf { ver := 3, tc := 1, st := 1, rp := 1, qy := 1, pu := 1, std := 0, type := 7, bpp := 32, seq := 15, id := 255,
            offset := 4294967295, length := 65535, tcv := 1, sec := 65535, frac := 65535 } [] =
      some (none, [0xDF, 0x0F, 0xBE] ++ List.replicate 11 0xFF) := by decide

/-- DV-E5, E9, E10, E11: the two errors, both defects, the dropped timecode. -/
theorem test_enc_edges : encOf { Ports.zero with std := 1, bpp := 2 } [] = some (some .unsupportedBitsPerPixel, []) ∧
    encOf { Ports.zero with std := 1, tc := 1 } [] = some (some .missingTimecode, []) ∧
    encOf { Ports.zero with std := 1, tc := 1, bpp := 2 } [] = some (some .unsupportedBitsPerPixel, []) ∧
    encOf { Ports.zero with std := 1, tcv := 1, sec := 4660, frac := 22136 } [] = some (none, List.replicate 10 0) := by
  decide

/-! ## The marshaller -/

/-- DV-M3, M4: version and timecode; the reserved bit alone. -/
theorem test_unpack_flags : (after (exec (.unpackFlags 0x50) State.reset)).map (fun s => s.f) =
      some { Ports.zero with ver := 1, tc := 1 } ∧
    (after (exec (.unpackFlags 0x20) State.reset)).map (fun s => s.f) = some Ports.zero := by decide

/-- DV-M9, M11. -/
theorem test_pack_flags : (after (exec (.packFlags 3 1 1 1 1 1) State.reset)).map (fun s => s.byteOut) = some 0xDF ∧
    (after (exec (.packFlags 2 0 1 0 1 0) State.reset)).map (fun s => s.byteOut) = some 0x8A := by decide

/-- DV-M12, M13. -/
theorem test_seq : (after (exec (.unpackSeq 0xAB) State.reset)).map (fun s => s.f.seq) = some 11 ∧
    (after (exec (.packSeq 9) State.reset)).map (fun s => s.byteOut) = some 0x09 := by decide

/-- DV-M14, M17: standard inverted; bit 6 ignored. -/
theorem test_unpack_dtype : (after (exec (.unpackDtype 0x92) State.reset)).map (fun s => (s.f.std, s.f.type, s.sizeCode)) =
      some (0, 2, 2) ∧
    (after (exec (.unpackDtype 0x7E) State.reset)).map (fun s => (s.f.std, s.f.type, s.sizeCode)) = some (1, 7, 6) := by
  decide

/-- DV-M20, M21, M22. -/
theorem test_size_codes : ([0, 1, 2, 3, 4, 5, 6, 7].map fun z => (after (exec (.size2bpp z) State.reset)).map (fun s => s.bppOut)) =
      [some (some 0), some (some 1), some (some 4), some (some 8), some (some 16), some (some 24), some (some 32), some none] ∧
    ([32, 1, 2, 255].map fun v => (after (exec (.bpp2size v) State.reset)).map (fun s => s.sizeOut)) =
      [some (some 6), some (some 1), some none, some none] := by decide

/-- DV-M23, M25. -/
theorem test_pack_dtype : (after (exec (.packDtype 0 2 2) State.reset)).map (fun s => s.byteOut) = some 0x92 ∧
    (after (exec (.packDtype 1 7 6) State.reset)).map (fun s => s.byteOut) = some 0x3E := by decide

/-! ## The serializer -/

/-- DV-S1, S2, S5 at the indices of R188. -/
theorem test_loads : (after (exec (.get8 3) (onWire sv1))).map (fun s => s.byteOut) = some 0x01 ∧
    (after (exec (.get16be 8) (onWire sv1))).map (fun s => s.halfOut) = some 4113 ∧
    (after (exec (.get32be 4) (onWire sv1))).map (fun s => s.wordOut) = some 1164413200 := by decide

/-- DV-S7, S8, S9. -/
theorem test_stores : (after (exec (.put8 0 0x40) (onOutput []))).map (fun s => s.w) = some [0x40] ∧
    (after (exec (.put16be 8 4113) (onOutput (List.replicate 8 0)))).map (fun s => s.w.drop 8) = some [0x10, 0x11] ∧
    (after (exec (.put32be 4 480) (onOutput [0, 0, 0, 0]))).map (fun s => s.w.drop 4) = some [0, 0, 0x01, 0xE0] := by
  decide

/-- DV-S10, S12, S13. -/
theorem test_slice_append : (after (exec (.slice 10) (onWire frag))).map (fun s => s.pay) = some [0xFF, 0x00, 0x80] ∧
    (after (exec (.slice 14) (onWire sv2))).map (fun s => s.pay) = some [] ∧
    (after (exec .append { onOutput (frag.take 10) with pay := [0xFF, 0x00, 0x80] })).map (fun s => s.wire) = some frag := by
  decide

/-! ## Wire, size-code and status rows -/

/-- SV-1 and SV-2 byte by byte. -/
theorem test_wire_rows : (after (wireSequence sv2 (onWire sv2))).map (fun s => (s.f, s.pay)) = some (sv2Packet, []) ∧
    (after (exec (.wireBytes10to13 4113 4368) (onWire sv1))).map (fun s => s.pay) = some [0x10, 0x11, 0x11, 0x10] := by
  decide

/-- DV-D20 to D28: bits per pixel of each size code. -/
theorem test_size_code_rows :
    ([Instr.sizeCode0 0 0 0, .sizeCode1 0 0 0, .sizeCode2 0 0 0, .sizeCode3 0 0 0, .sizeCode4 0 0 0, .sizeCode5 0 0 0,
      .sizeCode6 0 1 7, .sizeCode7 0 0 0].map fun i => (after (exec i State.reset)).map fun s => (s.err, s.f.std, s.f.type, s.f.bpp)) =
    [some (none, 1, 0, 0), some (none, 1, 0, 1), some (none, 1, 0, 4), some (none, 1, 0, 8), some (none, 1, 0, 16),
     some (none, 1, 0, 24), some (none, 1, 7, 32), some (some .unknownSizeCode, 0, 0, 0)] := by decide

/-- R9: the codes of `ERR`; R210: an error of `ENC` leaves `F` alone and empties `WIRE`. -/
theorem test_status_rows :
    ([Instr.errOk, .errTooShort, .errUnknownSizeCode, .errUnsupportedBitsPerPixel, .errMissingTimecode].map fun i =>
      (after (exec i (onWire sv1))).map fun s => (errCode s.err, s.wire)) =
    [some (0, sv1), some (1, sv1), some (2, sv1), some (3, []), some (4, [])] := by decide

/-! ## Witnesses: states and operands that meet the hypotheses of the statements -/

/-- A `DEC` request and an `ENC` request. -/
def decReq (w : Bytes) : Request := { op := 0, f := Ports.zero, pay := [], wire := w }
def encReq (f : Ports) (p : Bytes) : Request := { op := 1, f := f, pay := p, wire := [] }

/-- Two requests pending and one response delivered, with the least bound R7 allows. -/
def busy : State :=
  { State.reset with maxWire := some 14, inbox := [decReq sv2, encReq sv1Packet [7]], outbox := [.enc none sv1] }

theorem witness_EveryStepKeepsInvariant : busy.Inv ∧ ∃ t, step busy = .next t :=
  ⟨⟨by decide, by decide, rfl, rfl, rfl, rfl, rfl⟩, _, rfl⟩

theorem witness_StepRunsDecodedOperation :
    (∃ r rest, busy.inbox = r :: rest ∧ admitted busy.maxWire r = true ∧
      decode ⟨if r.op = 0#1 then .dec else .enc, 0, [r.op.setWidth 8]⟩ = .ok .dec) ∧
    (∃ r rest, ({ busy with inbox := busy.inbox.drop 1 } : State).inbox = r :: rest ∧ admitted busy.maxWire r = true ∧
      decode ⟨if r.op = 0#1 then .dec else .enc, 0, [r.op.setWidth 8]⟩ = .ok .enc) :=
  ⟨⟨_, _, rfl, by decide, by decide⟩, _, _, rfl, by decide, by decide⟩

theorem witness_AdmittedRequestGetsOneResponse :
    (∃ r rest, busy.inbox = r :: rest ∧ admitted busy.maxWire r = true ∧ r.op = 0#1) ∧
    (∃ r rest, busy.inbox.drop 1 = r :: rest ∧ admitted busy.maxWire r = true ∧ r.op = 1#1) :=
  ⟨⟨_, _, rfl, by decide, rfl⟩, _, _, rfl, by decide, rfl⟩

/-- One byte more than the bound, for each operation. -/
theorem witness_RequestOutsideBoundIsRefused :
    (∃ r rest m, ({ busy with inbox := [decReq (sv2 ++ [0])] } : State).inbox = r :: rest ∧ busy.maxWire = some m ∧
      r.op = 0#1 ∧ m < r.wire.length) ∧
    (∃ r rest m, ({ busy with inbox := [encReq sv2Packet [0]] } : State).inbox = r :: rest ∧ busy.maxWire = some m ∧
      r.op = 1#1 ∧ m < 10 + 4 * r.f.tc.toNat + r.pay.length) :=
  ⟨⟨_, _, _, rfl, rfl, by decide, by decide⟩, _, _, _, rfl, rfl, by decide, by decide⟩

/-- The least bound, with a frame and a packet that just fit. -/
theorem witness_ResponsesFitTheBound :
    (∃ r rest m, busy.inbox = r :: rest ∧ busy.maxWire = some m ∧ 14 ≤ m ∧ admitted busy.maxWire r = true ∧
      r.wire.length = m) ∧
    (∃ r rest m, ({ busy with inbox := [encReq sv2Packet []] } : State).inbox = r :: rest ∧ busy.maxWire = some m ∧
      14 ≤ m ∧ admitted busy.maxWire r = true) :=
  ⟨⟨_, _, _, rfl, rfl, by decide, by decide, by decide⟩, _, _, _, rfl, rfl, by decide, by decide⟩

/-- Two `DEC` requests with one frame and different ignored ports; two `ENC` requests likewise. -/
theorem witness_ResponseIsFunctionOfRequestAlone :
    (sameOperands (decReq sv1) { decReq sv1 with pay := [1] } ∧ admitted busy.maxWire (decReq sv1) = true) ∧
    (sameOperands (encReq sv1Packet []) { encReq sv1Packet [] with wire := sv2 } ∧
      admitted State.reset.maxWire (encReq sv1Packet []) = true) := by
  refine ⟨⟨⟨rfl, fun _ => rfl, ?_⟩, by decide⟩, ⟨rfl, ?_, fun _ => ⟨rfl, rfl⟩⟩, by decide⟩ <;> decide

theorem witness_QueueIsAnsweredInOrderAsInIsolation : busy.Safe ∧ busy.inbox.length = 2 :=
  ⟨by unfold State.Safe; decide, rfl⟩

theorem witness_OnlyDecAndEncAnswerTheHost :
    (∃ t, exec (.get8 9) (onWire sv1) = .next t) ∧ (∃ t, exec .dec (onWire sv1) = .next t) := ⟨⟨_, rfl⟩, _, rfl⟩

/-- Legal frames with and without the timecode, of the least lengths, and an illegal one a byte short. -/
theorem witness_legal_frames : legalFrame (onWire sv1).wire = true ∧ legalFrame (onWire sv2).wire = true ∧
    legalFrame (sv2.take 13) = false ∧ canonicalFrame (onWire frag).wire = true ∧
    legalFrame fragReserved = true ∧ canonicalFrame fragReserved = false := by decide

theorem witness_DecFillsEveryPortFromItsBits : legalFrame (onWire sv1).wire = true ∧ legalFrame (onWire sv2).wire = true ∧
    10 ≤ (onWire (sv1.set 2 0x07)).wire.length ∧ at' (onWire (sv1.set 2 0x07)).wire 2 % 8 = 7 := by decide

theorem witness_DecBelowTenBytesIsTooShort : (onWire (sv1.take 9)).wire.length < 10 ∧ (onWire []).wire.length < 10 := by decide

/-- The three clauses, at 13, 14 and 10 bytes. -/
theorem witness_DecTimecodeAndSecondLengthCheck :
    (10 ≤ (sv2.take 13).length ∧ at' (sv2.take 13) 2 % 8 ≠ 7 ∧ flagged (sv2.take 13) = true ∧ (sv2.take 13).length < 14) ∧
    (10 ≤ sv2.length ∧ at' sv2 2 % 8 ≠ 7 ∧ flagged sv2 = true ∧ 14 ≤ sv2.length) ∧
    (10 ≤ sv1.length ∧ at' sv1 2 % 8 ≠ 7 ∧ flagged sv1 = false) := by decide

theorem witness_DecIgnoresReservedBits :
    clearReserved (onWire frag).wire = clearReserved (onWire fragReserved).wire ∧ frag ≠ fragReserved := by decide

theorem witness_FlagBitsAreIsolated :
    (∃ b rest t, (onWire sv1).wire = b :: rest ∧ legalFrame (onWire sv1).wire = true ∧ (onWire sv1).wire.length < 14 ∧
      exec .dec (onWire sv1) = .next t ∧ (0x80#8, { t.f with ver := t.f.ver ^^^ 2#2 }) ∈
        [(0x01#8, { t.f with pu := ~~~ t.f.pu }), (0x02#8, { t.f with qy := ~~~ t.f.qy }),
         (0x04#8, { t.f with rp := ~~~ t.f.rp }), (0x08#8, { t.f with st := ~~~ t.f.st }),
         (0x20#8, t.f), (0x40#8, { t.f with ver := t.f.ver ^^^ 1#2 }), (0x80#8, { t.f with ver := t.f.ver ^^^ 2#2 })]) ∧
    (∃ b rest, (onWire sv2).wire = b :: rest ∧ legalFrame (onWire sv2).wire = true ∧ 14 ≤ (onWire sv2).wire.length) :=
  ⟨⟨_, _, _, rfl, by decide, by decide, rfl, by simp⟩, _, _, rfl, by decide, by decide⟩

theorem witness_DecNeverUsesDeclaredLength : legalFrame (onWire sv2).wire = true := by decide

/-- A successful `DEC`, for the statements about one. -/
theorem witness_dec_succeeds : ∃ t, exec .dec (onWire sv2) = .next t ∧ t.err = none := ⟨_, rfl, by decide⟩

theorem witness_EncEmitsFrameInFixedOrder :
    ((2, (onPacket sv1Packet []).f.bpp.toNat) ∈ sizePairs ∧ (onPacket sv1Packet []).f.tcv = (onPacket sv1Packet []).f.tc) ∧
    ((2, (onPacket sv2Packet []).f.bpp.toNat) ∈ sizePairs ∧ (onPacket sv2Packet []).f.tcv = (onPacket sv2Packet []).f.tc) := by
  decide

theorem witness_EncDropsUnflaggedTimecode :
    (2, (onPacket { sv1Packet with tcv := 1 } []).f.bpp.toNat) ∈ sizePairs ∧ ({ sv1Packet with tcv := 1 } : Ports).tc = 0#1 := by
  decide

theorem witness_EncRequiresFlaggedTimecode :
    sv2Packet.bpp ∈ bppSet ∧ sv2Packet.tc = 1#1 ∧ sv2Packet.tcv = 1#1 ∧ ({ sv2Packet with tcv := 0 } : Ports).tcv = 0#1 := by
  decide

theorem witness_EncRebuildsDataTypeByte :
    ({ sv1Packet with bpp := 33 } : Ports).bpp ∉ bppSet ∧ (2, sv1Packet.bpp.toNat) ∈ sizePairs := by decide

/-- A successful `ENC`, for the statements about one. -/
theorem witness_enc_succeeds : ∃ t, exec .enc (onPacket sv2Packet [7]) = .next t ∧ t.err = none := ⟨_, rfl, by decide⟩

/-- Two packets that differ in the values an absent timecode carries. -/
theorem witness_EncIsInjectiveOnValidPackets :
    sv1Packet.valid = true ∧ ({ sv1Packet with sec := 1 } : Ports).valid = true ∧
    ∃ t t', exec .enc (onPacket sv1Packet [7]) = .next t ∧ exec .enc (onPacket { sv1Packet with sec := 1 } [7]) = .next t' ∧
      t.wire = t'.wire := ⟨by decide, by decide, _, _, rfl, rfl, by decide⟩

theorem witness_PacketRoundTrip : (onPacket sv1Packet [7]).f.valid = true ∧ (onPacket sv2Packet []).f.valid = true ∧
    ∃ t, exec .enc (onPacket sv2Packet []) = .next t ∧ (onWire sv2).wire = t.wire := ⟨by decide, by decide, _, rfl, by decide⟩

/-- A legal frame that is canonical and one that is not, and a state with the decoded packet. -/
theorem witness_FrameRoundTripIsCanonical : legalFrame (onWire frag).wire = true ∧ legalFrame (onWire fragReserved).wire = true ∧
    ∃ t, exec .dec (onWire sv2) = .next t ∧ (onPacket sv2Packet []).f = t.f ∧ (onPacket sv2Packet []).pay = t.pay :=
  ⟨by decide, by decide, _, rfl, by decide, by decide⟩

theorem witness_CanonicalFrameIsUnique : legalFrame (onWire fragReserved).wire = true ∧ canonicalFrame (onWire frag).wire = true ∧
    frag = clearReserved fragReserved := by decide

theorem witness_DecodedPacketIsAdmittedForEncoding : (decReq sv2).op = 0#1 ∧ admitted busy.maxWire (decReq sv2) = true := by
  decide

/-- A frame in three shapes: shorter than 14 bytes, longer without the flag (DV-D15), with the flag. -/
theorem witness_WireRowsReadFrameAsDecDoes :
    (legalFrame (onWire frag).wire = true ∧ (onWire frag).f = Ports.zero ∧ (onWire frag).pay = []) ∧
    (legalFrame (onWire (0x40 :: sv2.drop 1)).wire = true ∧ (onWire (0x40 :: sv2.drop 1)).f = Ports.zero) ∧
    (legalFrame (onWire sv2).wire = true ∧ (onWire sv2).f = Ports.zero ∧ (onWire sv2).pay = []) := by decide

/-- The last index each load reads at. -/
theorem witness_LoadsReadBigEndianValues : 9 < (onWire sv1).wire.length ∧ 8 + 1 < (onWire sv1).wire.length ∧
    6 + 3 < (onWire sv1).wire.length := by decide

theorem witness_StoresAppendBigEndianBytes : (onOutput [1, 2, 3, 4]).w.length = 4 := by decide

theorem witness_SliceAndAppendMoveThePayload : 14 ≤ (onWire sv2).wire.length ∧ 0 < (onOutput [1]).w.length := by decide

/-- The first index each load, slice and store stops at. -/
theorem witness_SerializerStopsOutsidePrecondition : (onWire sv1).wire.length ≤ 10 ∧ (onWire sv1).wire.length ≤ 9 + 1 ∧
    (onWire sv1).wire.length ≤ 7 + 3 ∧ (onWire sv1).wire.length < 11 ∧ (onOutput [1]).w.length ≠ 2 := by decide

theorem witness_StoreThenLoadReturnsValue : 0 < (onOutput [1]).w.length := by decide

/-- A size code and a value at the ends of the table. -/
theorem witness_PackersInvertUnpackers : (6 : BitVec 3) ≠ 7 ∧ (32 : BitVec 8) ∈ bppSet ∧ (0 : BitVec 8) ∈ bppSet := by decide

/-- Each clause with a premise at the last index it allows. -/
theorem witness_LoadThenStoreKeepsBytes :
    (({ onWire sv1 with w := frag.take 9 } : State).w.length = 9 ∧ 9 + 1 ≤ (onWire sv1).wire.length) ∧
    (({ onWire sv1 with w := frag.take 8 } : State).w.length = 8 ∧ 8 + 2 ≤ (onWire sv1).wire.length) ∧
    (({ onWire sv1 with w := frag.take 6 } : State).w.length = 6 ∧ 6 + 4 ≤ (onWire sv1).wire.length) ∧
    (({ onWire sv1 with w := sv1.take 10 } : State).w = (onWire sv1).wire.take 10 ∧ 10 ≤ (onWire sv1).wire.length) := by
  decide

theorem witness_WireByteTwoGivesDataType : (0xFE#8).toNat % 8 ≠ 7 ∧ (0x47#8).toNat % 8 = 7 := by decide

theorem witness_SizeCodeRowsGiveBitsPerPixel : (Instr.sizeCode6 1 1 7, 32) ∈
    [(Instr.sizeCode0 1 1 7, 0), (.sizeCode1 1 1 7, 1), (.sizeCode2 1 1 7, 4), (.sizeCode3 1 1 7, 8),
     (.sizeCode4 1 1 7, 16), (.sizeCode5 1 1 7, 24), (.sizeCode6 1 1 7, 32)] := by decide

theorem witness_TimecodeAndPayloadRows : (onPacket sv2Packet []).f.tc = 1#1 ∧ (onPacket sv1Packet []).f.tc = 0#1 ∧
    0 < (onPacket sv1Packet [7]).pay.length := by decide

/-- Well-formed instructions at the ends of their operands' ranges. -/
theorem witness_DecodeOfEncodeIsInstruction : (Instr.packDtype 1 7 6).wf = true ∧ (Instr.put32be 4 4294967295).wf = true ∧
    (Instr.slice 14).wf = true := by decide

theorem witness_EncodeOfDecodeIsCode : decode ⟨.put16be, 12, [0xFF, 0xFF]⟩ = .ok (.put16be 12 65535) ∧
    decode ⟨.packDtype, 0, [0xBE]⟩ = .ok (.packDtype 0 7 6) := by decide

end Sys2Proof.Tests
end

section
/-! SUPPORT. Proofs of the scope statements: what a step runs (R10, R37, R99) and the status rows (R9, R210). -/

namespace Sys2Proof.Machine

/-! ## A step runs the operation of the oldest request -/

/-- `OP` written in a byte is the code of its own row, so the row decoder and the command decoder agree (R99, log 6). -/
theorem decode_opCode : ∀ op : BitVec 1,
    decode ⟨if op = 0#1 then .dec else .enc, 0, [op.setWidth 8]⟩ = .ok (decodeOp op) := by decide

/-- With an admitted request oldest, a step is that request's transaction (R10, R58). -/
theorem step_of_admitted {s : State} {r : Request} {rest : List Request} (hin : s.inbox = r :: rest)
    (hadm : admitted s.maxWire r = true) : step s = transact s r rest := by
  simp only [step, nextTransaction, hin, if_pos hadm]

/-- Settles O3: the request's code decodes to `decodeOp r.op` and to nothing else, and the transaction of an admitted
request is `exec` of that operation between `accept` and `release`. -/
theorem stepRunsDecodedOperation : Obligations.StepRunsDecodedOperation := by
  intro s r rest i hin hadm hdec
  obtain rfl : decodeOp r.op = i := Except.ok.inj ((decode_opCode r.op).symm.trans hdec)
  exact step_of_admitted hin hadm

/-! ## The status rows -/

/-- `OK` leaves the results as they are (R121 step 12, R141 step 8). -/
theorem exec_errOk (s : State) : exec .errOk s = .next { s with err := none } := rfl

/-- The error response of `DEC` through its first status row (R201, R210). -/
theorem exec_errTooShort (s : State) :
    exec .errTooShort s = .next { s with err := some .tooShort, f := Ports.zero, pay := [] } :=
  congrArg Host.Outcome.next (raise_ofDec s rfl)

/-- The error response of `DEC` through its second status row (R202, R210). -/
theorem exec_errUnknownSizeCode (s : State) :
    exec .errUnknownSizeCode s = .next { s with err := some .unknownSizeCode, f := Ports.zero, pay := [] } :=
  congrArg Host.Outcome.next (raise_ofDec s rfl)

/-- The error response of `ENC` through its first status row (R203, R210). -/
theorem exec_errUnsupportedBitsPerPixel (s : State) :
    exec .errUnsupportedBitsPerPixel s = .next { s with err := some .unsupportedBitsPerPixel, wire := [] } :=
  congrArg Host.Outcome.next (raise_ofEnc s rfl)

/-- The error response of `ENC` through its second status row (R204, R210). -/
theorem exec_errMissingTimecode (s : State) :
    exec .errMissingTimecode s = .next { s with err := some .missingTimecode, wire := [] } :=
  congrArg Host.Outcome.next (raise_ofEnc s rfl)

/-- Settles O50: each row's `exec` equation with the code that R9 gives the value it puts on `ERR`. -/
theorem statusRowsGiveTheirResponse : Obligations.StatusRowsGiveTheirResponse := fun s =>
  ⟨some .tooShort, some .unknownSizeCode, some .unsupportedBitsPerPixel, some .missingTimecode,
    exec_errOk s, rfl, exec_errTooShort s, rfl, exec_errUnknownSizeCode s, rfl,
    exec_errUnsupportedBitsPerPixel s, rfl, exec_errMissingTimecode s, rfl⟩

end Sys2Proof.Machine
end

section
/-! SUPPORT. Proofs of the state statements: what a successful `DEC` leaves (R31, R32, R134), that every response is
legal (R152, R210), and what a step keeps (R20, R34). -/

namespace Sys2Proof.Machine

/-! ## A successful decoding -/

/-- The size-code table reads only legal bits per pixel (R31). -/
theorem size2bpp_some_mem : ∀ (z : BitVec 3) (v : BitVec 8), size2bpp z = some v → v ∈ bppSet := by decide

/-- A slice keeps every byte from its index on (R186). -/
theorem length_eq_add_slice {w : Bytes} {h : Nat} (hle : h ≤ w.length) : w.length = h + (slice w h).length := by
  rw [slice, List.length_drop]
  omega

section
variable {w : Bytes} {f : Ports} {p : Bytes}

theorem decFrame_ok_bpp (h : decFrame w = .ok (f, p)) : f.bpp ∈ bppSet := by
  obtain ⟨-, bpp, hz, ⟨-, -, rfl, -⟩ | ⟨-, rfl, -⟩⟩ := decFrame_ok h
  · exact size2bpp_some_mem _ bpp hz
  · exact size2bpp_some_mem _ bpp hz

theorem decFrame_ok_tcv (h : decFrame w = .ok (f, p)) : f.tcv = f.tc := by
  obtain ⟨-, bpp, -, ⟨htc, -, rfl, -⟩ | ⟨htc, rfl, -⟩⟩ := decFrame_ok h
  · exact htc.symm
  · exact ((BitVec.eq_zero_or_eq_one _).resolve_right htc).symm

theorem decFrame_ok_length (h : decFrame w = .ok (f, p)) : w.length = 10 + 4 * f.tc.toNat + p.length := by
  obtain ⟨hten, bpp, -, ⟨htc, hlen, rfl, rfl⟩ | ⟨htc, rfl, rfl⟩⟩ := decFrame_ok h
  · rw [show (timedPorts w bpp).tc = 1#1 from htc]
    exact length_eq_add_slice hlen
  · rw [show (headerPorts w bpp).tc = 0#1 from (BitVec.eq_zero_or_eq_one _).resolve_right htc]
    exact length_eq_add_slice hten

/-- An absent timecode reads as zeros (decision D11, log 19). -/
theorem decFrame_ok_timecode (h : decFrame w = .ok (f, p)) : f.tcv = 1#1 ∨ f.sec = 0 ∧ f.frac = 0 := by
  obtain ⟨-, bpp, -, ⟨-, -, rfl, -⟩ | ⟨-, rfl, -⟩⟩ := decFrame_ok h
  · exact .inl rfl
  · exact .inr ⟨rfl, rfl⟩

end

/-! ## The results of the two operations, by how the algorithm ends -/

theorem decResult_of_ok {w : Bytes} {f : Ports} {p : Bytes} (h : decFrame w = .ok (f, p)) :
    decResult w = (none, f, p) := by simp only [decResult, h]

theorem decResult_of_error {w : Bytes} {e : DdpError} (h : decFrame w = .error e) :
    decResult w = (some e, Ports.zero, []) := by simp only [decResult, h]

theorem encResult_of_ok {f : Ports} {p w : Bytes} (h : encPacket f p = .ok w) : encResult f p = (none, w) := by
  simp only [encResult, h]

theorem encResult_of_error {f : Ports} {p : Bytes} {e : DdpError} (h : encPacket f p = .error e) :
    encResult f p = (some e, []) := by simp only [encResult, h]

/-- `ERR` is `OK` only if the frame decodes, and then `F` and `PAY` are the decoded packet (R121 step 12). -/
theorem decFrame_ok_of_err_none {w : Bytes} (h : (decResult w).1 = none) : decFrame w = .ok (decResult w).2 := by
  cases hd : decFrame w with
  | ok r => rw [decResult_of_ok hd]
  | error e => rw [decResult_of_error hd] at h; cases h

/-- Settles O18: `DEC` always answers, and on success its results are those of a decoded frame. -/
theorem decTimecodePresenceAndPayloadLength : Obligations.DecTimecodePresenceAndPayloadLength := fun s =>
  ⟨_, exec_dec s, fun h => ⟨decFrame_ok_tcv (decFrame_ok_of_err_none h), decFrame_ok_length (decFrame_ok_of_err_none h)⟩⟩

/-- Settles O19: on success `BPP` is an entry of the size-code table. -/
theorem decBitsPerPixelInClosedSet : Obligations.DecBitsPerPixelInClosedSet := fun s =>
  ⟨_, exec_dec s, fun h => decFrame_ok_bpp (decFrame_ok_of_err_none h)⟩

/-! ## An encoded frame is canonical -/

/-- Bit 4 of the flags byte is `TC` (R82, R162). -/
theorem packFlags_timecodeBit : ∀ (ver : BitVec 2) (tc st rp qy pu : BitVec 1), tc ≠ 1#1 →
    packFlags ver tc st rp qy pu &&& 0x10#8 = 0 := by decide

theorem packFlags_reservedBit : ∀ (ver : BitVec 2) (tc st rp qy pu : BitVec 1),
    packFlags ver tc st rp qy pu &&& 0x20#8 = 0 := by decide

theorem packSeq_reservedBits : ∀ seq : BitVec 4, packSeq seq &&& 0xF0#8 = 0 := by decide

theorem packDtype_reservedBit : ∀ (std : BitVec 1) (type z : BitVec 3), packDtype std type z &&& 0x40#8 = 0 := by
  decide

theorem packDtype_sizeBits : ∀ (std : BitVec 1) (type z : BitVec 3), z ≠ 7 → packDtype std type z &&& 7#8 ≠ 7 := by
  decide

theorem legalFrame_iff (w : Bytes) : legalFrame w = true ↔
    10 ≤ w.length ∧ (byteAt w 0 &&& 0x10#8 = 0 ∨ 14 ≤ w.length) ∧ byteAt w 2 &&& 7#8 ≠ 7 := by
  simp [legalFrame, and_assoc]

theorem canonicalFrame_iff (w : Bytes) : canonicalFrame w = true ↔
    legalFrame w = true ∧ byteAt w 0 &&& 0x20#8 = 0 ∧ byteAt w 1 &&& 0xF0#8 = 0 ∧ byteAt w 2 &&& 0x40#8 = 0 := by
  simp [canonicalFrame, and_assoc]

/-- A header and the bytes after it are a canonical frame, if they hold the timecode that `TC` announces. -/
theorem headerBytes_append_canonical {f : Ports} {z : BitVec 3} {q : Bytes} (hz : z ≠ 7)
    (hq : f.tc = 1#1 → 4 ≤ q.length) : canonicalFrame (headerBytes f z ++ q) = true := by
  have hlegal : legalFrame (headerBytes f z ++ q) = true := by
    rw [legalFrame_iff, List.length_append, headerBytes_length]
    refine ⟨Nat.le_add_right 10 _, ?_, packDtype_sizeBits _ _ z hz⟩
    by_cases htc : f.tc = 1#1
    · exact .inr (Nat.add_le_add_left (hq htc) 10)
    · exact .inl (packFlags_timecodeBit _ _ _ _ _ _ htc)
  exact (canonicalFrame_iff _).2
    ⟨hlegal, packFlags_reservedBit _ _ _ _ _ _, packSeq_reservedBits _, packDtype_reservedBit _ _ _⟩

/-- Every frame `ENC` emits is canonical (R152). -/
theorem encPacket_ok_canonical {f : Ports} {p w : Bytes} (h : encPacket f p = .ok w) : canonicalFrame w = true := by
  obtain ⟨z, hz, ⟨-, -, rfl⟩ | ⟨htc, rfl⟩⟩ := encPacket_ok h
  · rw [timedBytes, List.append_assoc]
    exact headerBytes_append_canonical (bpp2size_ne_seven _ _ hz) fun _ => by
      simp only [List.length_append, bytes16_length]
      omega
  · exact headerBytes_append_canonical (bpp2size_ne_seven _ _ hz) fun h1 => absurd h1 htc

/-! ## Every response is legal -/

theorem Ports.valid_iff (f : Ports) : f.valid = true ↔ f.bpp ∈ bppSet ∧ f.tcv = f.tc := by simp [Ports.valid]

theorem legal_decOk_iff (f : Ports) (p : Bytes) : (Response.dec none f p).legal = true ↔
    f.bpp ∈ bppSet ∧ f.tcv = f.tc ∧ (f.tcv = 1#1 ∨ f.sec = 0 ∧ f.frac = 0) := by
  simp [Response.legal, Ports.valid_iff, and_assoc]

theorem decResult_legal (w : Bytes) :
    (Response.dec (decResult w).1 (decResult w).2.1 (decResult w).2.2).legal = true := by
  cases h : decFrame w with
  | ok r =>
    obtain ⟨f, p⟩ := r
    rw [decResult_of_ok h]
    exact (legal_decOk_iff f p).2 ⟨decFrame_ok_bpp h, decFrame_ok_tcv h, decFrame_ok_timecode h⟩
  | error e => simp [decResult_of_error h, Response.legal, decFrame_error h]

theorem encResult_legal (f : Ports) (p : Bytes) :
    (Response.enc (encResult f p).1 (encResult f p).2).legal = true := by
  cases h : encPacket f p with
  | ok w => simp [encResult_of_ok h, Response.legal, encPacket_ok_canonical h]
  | error e => simp [encResult_of_error h, Response.legal, encPacket_error h]

theorem answerOf_legal (r : Request) : (answerOf r).legal = true := by
  unfold answerOf
  split
  · exact decResult_legal r.wire
  · exact encResult_legal r.f r.pay

/-! ## What a step keeps -/

/-- Settles O1: every clause is a field of `State.reset`, whose outbox is empty. -/
theorem resetMeetsInvariantWithNothingPending : Obligations.ResetMeetsInvariantWithNothingPending :=
  ⟨⟨rfl, fun _ hr => absurd hr List.not_mem_nil, rfl, rfl, rfl, rfl, rfl⟩, rfl, rfl⟩

/-- A transaction adds one response, which is legal, and ends with empty ports. -/
theorem transact_keeps_Inv {s t : State} {r : Request} {rest : List Request} (hinv : s.Inv)
    (h : transact s r rest = .next t) : t.Inv := by
  obtain ⟨hmax, hout, -⟩ := hinv
  cases (transact_eq s r rest).symm.trans h
  refine ⟨hmax, fun a ha => ?_, rfl, rfl, rfl, rfl, rfl⟩
  obtain ha | ha := List.mem_append.1 ha
  · exact hout a ha
  · rw [List.mem_singleton.1 ha]
    exact answerOf_legal r

/-- Settles O2: a step waits or runs one transaction. -/
theorem everyStepKeepsInvariant : Obligations.EveryStepKeepsInvariant := by
  intro s t hinv hstep
  obtain ⟨-, rfl⟩ | ⟨r, rest, -, -, htrans⟩ := nextTransaction_next hstep
  · exact hinv
  · exact transact_keeps_Inv hinv htrans

/-! ## The response depends on the request alone -/

theorem answerOf_dec {r : Request} (h : r.op = 0#1) :
    answerOf r = .dec (decResult r.wire).1 (decResult r.wire).2.1 (decResult r.wire).2.2 := if_pos h

theorem answerOf_enc {r : Request} (h : r.op = 1#1) :
    answerOf r = .enc (encResult r.f r.pay).1 (encResult r.f r.pay).2 := if_neg (by rw [h]; decide)

/-- The answer reads only the operands of its own operation (R42, R43). -/
theorem answerOf_eq_of_sameOperands {r r' : Request} (h : SpecForm.sameOperands r r') : answerOf r = answerOf r' := by
  obtain ⟨hop, hdec, henc⟩ := h
  obtain h0 | h1 := BitVec.eq_zero_or_eq_one r.op
  · rw [answerOf_dec h0, answerOf_dec (hop ▸ h0), hdec h0]
  · obtain ⟨hf, hpay⟩ := henc h1
    rw [answerOf_enc h1, answerOf_enc (hop ▸ h1), hf, hpay]

/-- An admitted request gets `answerOf` of it, in any state (R20). -/
theorem step_delivers_answerOf {s : State} {r : Request} {rest : List Request} (hin : s.inbox = r :: rest)
    (hadm : admitted s.maxWire r = true) : ∃ t, step s = .next t ∧ t.outbox = s.outbox ++ [answerOf r] :=
  ⟨_, (step_of_admitted hin hadm).trans (transact_eq s r rest), rfl⟩

/-- Settles O7: both steps deliver the answer to one and the same set of operands. -/
theorem responseIsFunctionOfRequestAlone : Obligations.ResponseIsFunctionOfRequestAlone := by
  intro s s' r r' rest rest' hin hin' hsame hadm hadm'
  obtain ⟨t, hstep, hout⟩ := step_delivers_answerOf hin hadm
  obtain ⟨t', hstep', hout'⟩ := step_delivers_answerOf hin' hadm'
  rw [← answerOf_eq_of_sameOperands hsame] at hout'
  exact ⟨answerOf r, t, t', hstep, hout, hstep', hout'⟩

end Sys2Proof.Machine
end

section
/-! SUPPORT. Proofs of the statements about `MAX_WIRE` and the queue of requests: what admission says of each operation
(R58), the lengths of the responses, and that a queue is answered in order (R62). -/

namespace Sys2Proof.Machine

/-! ## Admission, for each operation -/

/-- The header is ten bytes, and four more with the timecode (R43). -/
theorem headerLen_eq (f : Ports) : f.headerLen = 10 + 4 * f.tc.toNat := by
  obtain h | h := BitVec.eq_zero_or_eq_one f.tc <;> rw [Ports.headerLen, h] <;> rfl

theorem fits_some_iff (m n : Nat) : fits (some m) n = true ↔ n ≤ m := decide_eq_true_iff

theorem admitted_dec {r : Request} (maxWire : Option Nat) (h : r.op = 0#1) :
    admitted maxWire r = fits maxWire r.wire.length := if_pos h

theorem admitted_enc {r : Request} (maxWire : Option Nat) (h : r.op = 1#1) :
    admitted maxWire r = fits maxWire (10 + 4 * r.f.tc.toNat + r.pay.length) := by
  rw [admitted, if_neg (by rw [h]; decide), headerLen_eq]

/-- A request outside the bound is no transaction (decision D7). -/
theorem step_of_not_admitted {s : State} {r : Request} {rest : List Request} (hin : s.inbox = r :: rest)
    (hadm : ¬ admitted s.maxWire r = true) : step s = .refused .requestNotAdmitted := by
  simp only [step, nextTransaction, hin, if_neg hadm]

/-- Settles O5: for either operation the excess is the negation of its admission. -/
theorem requestOutsideBoundIsRefused : Obligations.RequestOutsideBoundIsRefused := by
  intro s r rest m hin hmax hexcess
  refine step_of_not_admitted hin ?_
  obtain ⟨hop, hlt⟩ | ⟨hop, hlt⟩ := hexcess
  · rw [admitted_dec _ hop, hmax, fits_some_iff]
    exact Nat.not_le.2 hlt
  · rw [admitted_enc _ hop, hmax, fits_some_iff]
    exact Nat.not_le.2 hlt

/-! ## The lengths of the responses -/

/-- A payload that `DEC` gives comes after a header of at least ten bytes; an error response has none. -/
theorem decResult_pay_length (w : Bytes) : (decResult w).2.2.length ≤ w.length - 10 := by
  cases h : decFrame w with
  | ok r =>
    have hlen := decFrame_ok_length h
    simp only [decResult_of_ok h]
    omega
  | error e =>
    rw [decResult_of_error h]
    exact Nat.zero_le _

theorem encPacket_ok_length {f : Ports} {p w : Bytes} (h : encPacket f p = .ok w) :
    w.length = 10 + 4 * f.tc.toNat + p.length := by
  obtain ⟨z, -, ⟨htc, -, rfl⟩ | ⟨htc, rfl⟩⟩ := encPacket_ok h
  · rw [List.length_append, timedBytes_length, htc]
    rfl
  · rw [List.length_append, headerBytes_length, (BitVec.eq_zero_or_eq_one _).resolve_right htc]
    rfl

/-- A frame that `ENC` gives has the length that admission counts; an error response has none. -/
theorem encResult_wire_length (f : Ports) (p : Bytes) :
    (encResult f p).2.length ≤ 10 + 4 * f.tc.toNat + p.length := by
  cases h : encPacket f p with
  | ok w =>
    rw [encResult_of_ok h]
    exact (encPacket_ok_length h).le
  | error e =>
    rw [encResult_of_error h]
    exact Nat.zero_le _

/-- Settles O6: the response is `answerOf r`, no longer than the bytes that admission compared with the bound. The bound
is at least ten, so an empty payload fits too. -/
theorem responsesFitTheBound : Obligations.ResponsesFitTheBound := by
  intro s r rest m hin hmax hm hadm
  obtain ⟨t, hstep, hout⟩ := step_delivers_answerOf hin hadm
  refine ⟨answerOf r, t, hstep, hout, ?_⟩
  rw [hmax] at hadm
  obtain hop | hop := BitVec.eq_zero_or_eq_one r.op
  · rw [admitted_dec _ hop, fits_some_iff] at hadm
    rw [answerOf_dec hop]
    refine ⟨fun e f p ha => ?_, fun e w ha => nomatch ha⟩
    cases ha
    have hpay := decResult_pay_length r.wire
    omega
  · rw [admitted_enc _ hop, fits_some_iff] at hadm
    rw [answerOf_enc hop]
    refine ⟨fun e f p ha => (nomatch ha), fun e w ha => ?_⟩
    cases ha
    exact (encResult_wire_length r.f r.pay).trans hadm

/-- Settles O31: the decoded packet is counted with exactly the length of the frame it came from. -/
theorem decodedPacketIsAdmittedForEncoding : Obligations.DecodedPacketIsAdmittedForEncoding := by
  intro s r hop hadm
  refine ⟨_, exec_dec _, fun herr wire => ?_⟩
  have hlen := decFrame_ok_length (decFrame_ok_of_err_none herr)
  rw [admitted_dec _ hop, hlen] at hadm
  exact (admitted_enc _ rfl).trans hadm

/-! ## A queue of requests -/

/-- The step that answers the oldest request leaves the rest of a safe queue, as safe as before (R62). -/
theorem step_of_safe {s : State} {r : Request} {rest : List Request} (hin : s.inbox = r :: rest) (hsafe : s.Safe) :
    ∃ t, step s = .next t ∧ t.inbox = rest ∧ t.Safe ∧ t.outbox = s.outbox ++ [answerOf r] := by
  have hall : ∀ q ∈ r :: rest, admitted s.maxWire q = true := hin ▸ hsafe
  obtain ⟨hadm, hrest⟩ := List.forall_mem_cons.1 hall
  exact ⟨_, (step_of_admitted hin hadm).trans (transact_eq s r rest), rfl, hrest, rfl⟩

/-- A run begins with its first step. -/
theorem run_succ_of_step {M : Host.Core} {s t : M.State} (k : Nat) (h : M.step s = .next t) :
    M.run (k + 1) s = M.run k t := by
  rw [Host.Core.run, h]

/-- A safe queue is answered in order by as many steps as it has requests (R62, R251). -/
theorem run_answers_queue (queue : List Request) : ∀ s : State, s.inbox = queue → s.Safe →
    ∃ t : State, Host.Core.run core queue.length s = .next t ∧ t.inbox = [] ∧
      t.outbox = s.outbox ++ queue.map answerOf := by
  induction queue with
  | nil => exact fun s hin _ => ⟨s, rfl, hin, (List.append_nil _).symm⟩
  | cons r rest ih =>
    intro s hin hsafe
    obtain ⟨u, hstep, hinu, hsafeu, houtu⟩ := step_of_safe hin hsafe
    obtain ⟨t, hrun, hint, houtt⟩ := ih u hinu hsafeu
    refine ⟨t, (run_succ_of_step (M := core) rest.length hstep).trans hrun, hint, ?_⟩
    rw [houtt, houtu, List.append_assoc]
    rfl

/-- Settles O8: the one function is `answerOf`. -/
theorem queueIsAnsweredInOrderAsInIsolation : Obligations.QueueIsAnsweredInOrderAsInIsolation :=
  ⟨answerOf, fun s hsafe => run_answers_queue s.inbox s rfl hsafe⟩

end Sys2Proof.Machine
end

section
/-! SUPPORT. Proofs of the encoding statements: an instruction and its code determine each other (R82 to R92, R99, R161
to R188, R9). Decoding a code is `decodeBits` of its row, so the second direction is proved by one rule for each of the
forms `decodeBits` is built from. -/

namespace Sys2Proof.Machine

/-! ## Decoding the code of an instruction -/

/-- Settles O51: each row's own round trip. -/
theorem decodeOfEncodeIsInstruction : Obligations.DecodeOfEncodeIsInstruction
  | .dec => Laws.RoundTrip.dec
  | .enc => Laws.RoundTrip.enc
  | .unpackFlags b => Laws.RoundTrip.unpackFlags b
  | .packFlags ver tc st rp qy pu => Laws.RoundTrip.packFlags ver tc st rp qy pu
  | .unpackSeq b => Laws.RoundTrip.unpackSeq b
  | .packSeq seq => Laws.RoundTrip.packSeq seq
  | .unpackDtype b => Laws.RoundTrip.unpackDtype b
  | .size2bpp z => Laws.RoundTrip.size2bpp z
  | .bpp2size v => Laws.RoundTrip.bpp2size v
  | .packDtype std type z => Laws.RoundTrip.packDtype std type z
  | .get8 k => Laws.RoundTrip.get8 k
  | .get16be k => Laws.RoundTrip.get16be k
  | .get32be k => Laws.RoundTrip.get32be k
  | .put8 k v => Laws.RoundTrip.put8 k v
  | .put16be k v => Laws.RoundTrip.put16be k v
  | .put32be k v => Laws.RoundTrip.put32be k v
  | .slice h => Laws.RoundTrip.slice h
  | .append => Laws.RoundTrip.append
  | .wireByte0 b => Laws.RoundTrip.wireByte0 b
  | .wireByte1 b => Laws.RoundTrip.wireByte1 b
  | .wireByte2 b => Laws.RoundTrip.wireByte2 b
  | .wireByte3 id => Laws.RoundTrip.wireByte3 id
  | .wireBytes4to7 v => Laws.RoundTrip.wireBytes4to7 v
  | .wireBytes8to9 v => Laws.RoundTrip.wireBytes8to9 v
  | .wireBytes10to13 sec frac => Laws.RoundTrip.wireBytes10to13 sec frac
  | .wirePayload p => Laws.RoundTrip.wirePayload p
  | .sizeCode0 n x t => Laws.RoundTrip.sizeCode0 n x t
  | .sizeCode1 n x t => Laws.RoundTrip.sizeCode1 n x t
  | .sizeCode2 n x t => Laws.RoundTrip.sizeCode2 n x t
  | .sizeCode3 n x t => Laws.RoundTrip.sizeCode3 n x t
  | .sizeCode4 n x t => Laws.RoundTrip.sizeCode4 n x t
  | .sizeCode5 n x t => Laws.RoundTrip.sizeCode5 n x t
  | .sizeCode6 n x t => Laws.RoundTrip.sizeCode6 n x t
  | .sizeCode7 n x t => Laws.RoundTrip.sizeCode7 n x t
  | .errOk => Laws.RoundTrip.errOk
  | .errTooShort => Laws.RoundTrip.errTooShort
  | .errUnknownSizeCode => Laws.RoundTrip.errUnknownSizeCode
  | .errUnsupportedBitsPerPixel => Laws.RoundTrip.errUnsupportedBitsPerPixel
  | .errMissingTimecode => Laws.RoundTrip.errMissingTimecode

/-! ## The code of a decoded instruction

`CodedBy c d` says of a decoding `d` that it gives no instruction but a well-formed one whose code is `c`. One rule for
each form a row's decoding is built from. -/

/-- What `d` accepts is well formed and has the code `c`. -/
def CodedBy (c : Code) (d : Except DecodeError Instr) : Prop := ∀ i, d = .ok i → encode i = c ∧ i.wf = true

theorem codedBy_ok {c : Code} {i : Instr} (hcode : encode i = c) (hwf : i.wf = true) : CodedBy c (.ok i) := by
  rintro _ ⟨⟩
  exact ⟨hcode, hwf⟩

theorem codedBy_error (c : Code) (e : DecodeError) : CodedBy c (.error e) := fun _ h => nomatch h

section
variable {row : Row} {k : Nat}

theorem codedBy_noBytes {i : Instr} (bs : Bytes) (h : CodedBy ⟨row, k, []⟩ (.ok i)) :
    CodedBy ⟨row, k, bs⟩ (noBytes bs i) := by
  unfold noBytes
  split
  · exact h
  · exact codedBy_error _ _

theorem codedBy_oneByte {f : Byte → Except DecodeError Instr} (bs : Bytes)
    (h : ∀ b, CodedBy ⟨row, k, [b]⟩ (f b)) : CodedBy ⟨row, k, bs⟩ (oneByte bs f) := by
  unfold oneByte
  split
  · exact h _
  · exact codedBy_error _ _

/-- Two bytes are the bytes of the value read from them (R190). -/
theorem codedBy_twoBytes {f : BitVec 16 → Except DecodeError Instr} (bs : Bytes)
    (h : ∀ v, CodedBy ⟨row, k, bytes16 v⟩ (f v)) : CodedBy ⟨row, k, bs⟩ (twoBytes bs f) := by
  unfold twoBytes
  split
  · next b0 b1 => exact bytes16_be16 b0 b1 ▸ h (be16 b0 b1)
  · exact codedBy_error _ _

/-- Four bytes are the bytes of the value read from them (R190). -/
theorem codedBy_fourBytes {f : BitVec 32 → Except DecodeError Instr} (bs : Bytes)
    (h : ∀ v, CodedBy ⟨row, k, bytes32 v⟩ (f v)) : CodedBy ⟨row, k, bs⟩ (fourBytes bs f) := by
  unfold fourBytes
  split
  · next b0 b1 b2 b3 => exact bytes32_be32 b0 b1 b2 b3 ▸ h (be32 b0 b1 b2 b3)
  · exact codedBy_error _ _

end

theorem codedBy_requireFixed {c : Code} {i : Instr} {ok : Bool} (h : ok = true → CodedBy c (.ok i)) :
    CodedBy c (requireFixed ok i) := by
  unfold requireFixed
  split
  · next hok => exact h hok
  · exact codedBy_error _ _

/-- A row that fixes every bit of its byte. -/
theorem codedBy_constant {row : Row} {f : Byte → Instr} (v : Byte) (bs : Bytes)
    (h : CodedBy ⟨row, 0, [v]⟩ (.ok (f v))) : CodedBy ⟨row, 0, bs⟩ (oneByte bs fun b => requireFixed (b == v) (f b)) :=
  codedBy_oneByte bs fun _ => codedBy_requireFixed fun hb => eq_of_beq hb ▸ h

/-- A byte is written from the letters read from it (R84). -/
theorem dtypeByte_of_letters : ∀ b : Byte,
    dtypeByte (b.extractLsb' 7 1) (b.extractLsb' 6 1) (b.extractLsb' 3 3) (fldSize.unpack b) = b := by decide

theorem codedBy_sizeRow {row : Row} {z : BitVec 3} {mk : BitVec 1 → BitVec 1 → BitVec 3 → Instr} (bs : Bytes)
    (h : ∀ n x t, CodedBy ⟨row, 0, [dtypeByte n x t z]⟩ (.ok (mk n x t))) :
    CodedBy ⟨row, 0, bs⟩ (oneByte bs fun b => sizeRow z b mk) := by
  refine codedBy_oneByte bs fun b => codedBy_requireFixed fun hz => ?_
  have hcode := h (b.extractLsb' 7 1) (b.extractLsb' 6 1) (b.extractLsb' 3 3)
  rwa [← eq_of_beq hz, dtypeByte_of_letters] at hcode

/-! The rows with packed fields: a byte is determined by its fields and its fixed bits. -/

theorem encode_packFlags_of_byte : ∀ b : Byte, (fldRes0.unpack b == 0) = true →
    encode (.packFlags (fldVer.unpack b) (fldTc.unpack b) (fldSt.unpack b) (fldRp.unpack b) (fldQy.unpack b)
      (fldPu.unpack b)) = ⟨.packFlags, 0, [b]⟩ := by decide

theorem encode_packSeq_of_byte : ∀ b : Byte, (fldRes1.unpack b == 0) = true →
    encode (.packSeq (fldSeq.unpack b)) = ⟨.packSeq, 0, [b]⟩ := by decide

theorem encode_size2bpp_of_byte : ∀ b : Byte, (b.extractLsb' 3 5 == 0) = true →
    encode (.size2bpp (b.extractLsb' 0 3)) = ⟨.size2bpp, 0, [b]⟩ := by decide

theorem encode_packDtype_of_byte : ∀ b : Byte, (fldRes2.unpack b == 0) = true →
    encode (.packDtype (fldStd.unpack b) (fldType.unpack b) (fldSize.unpack b)) = ⟨.packDtype, 0, [b]⟩ := by decide

/-- Size code 7 is the one a `PACK_DTYPE` does not take (R168). -/
theorem packDtype_wf : ∀ (std : BitVec 1) (type z : BitVec 3), z ≠ 7 → (Instr.packDtype std type z).wf = true := by
  decide

theorem codedBy_packDtype (bs : Bytes) : CodedBy ⟨.packDtype, 0, bs⟩ (decodeBits .packDtype 0 bs) := by
  refine codedBy_oneByte bs fun b => ?_
  split
  · exact codedBy_error _ _
  · next hz =>
    exact codedBy_requireFixed fun hres => codedBy_ok (encode_packDtype_of_byte b hres) (packDtype_wf _ _ _ hz)

/-- The bytes of the two halves of a 32-bit value are its bytes (R88). -/
theorem bytes16_append_halves (v : BitVec 32) :
    bytes16 (v.extractLsb' 16 16) ++ bytes16 (v.extractLsb' 0 16) = bytes32 v := by
  obtain ⟨hsec, hfrac⟩ := Laws.RoundTrip.be32_halves (v.extractLsb' 24 8) (v.extractLsb' 16 8) (v.extractLsb' 8 8)
    (v.extractLsb' 0 8)
  rw [be32_bytes32] at hsec hfrac
  rw [hsec, hfrac, bytes16_be16, bytes16_be16]
  rfl

theorem codedBy_wireBytes10to13 (bs : Bytes) : CodedBy ⟨.wireBytes10to13, 0, bs⟩ (decodeBits .wireBytes10to13 0 bs) :=
  codedBy_fourBytes bs fun v => codedBy_ok (i := .wireBytes10to13 (v.extractLsb' 16 16) (v.extractLsb' 0 16))
    (congrArg (Code.mk .wireBytes10to13 0) (bytes16_append_halves v)) rfl

/-- A row without a constant index is decoded at index 0 only. -/
theorem codedBy_of_noIndex {row : Row} {k : Nat} {bs : Bytes} (hk : (k == 0) = true)
    (h : CodedBy ⟨row, 0, bs⟩ (decodeBits row 0 bs)) : CodedBy ⟨row, k, bs⟩ (decodeBits row k bs) :=
  eq_of_beq hk ▸ h

theorem codedBy_decodeBits (bs : Bytes) : ∀ (row : Row) (k : Nat), indexLegal row k = true →
    CodedBy ⟨row, k, bs⟩ (decodeBits row k bs)
  | .dec, _, hk => codedBy_of_noIndex hk <| codedBy_constant 0 bs <| codedBy_ok rfl rfl
  | .enc, _, hk => codedBy_of_noIndex hk <| codedBy_constant 1 bs <| codedBy_ok rfl rfl
  | .unpackFlags, _, hk => codedBy_of_noIndex hk <| codedBy_oneByte bs fun _ => codedBy_ok rfl rfl
  | .packFlags, _, hk => codedBy_of_noIndex hk <| codedBy_oneByte bs fun b => codedBy_requireFixed fun hres =>
      codedBy_ok (encode_packFlags_of_byte b hres) rfl
  | .unpackSeq, _, hk => codedBy_of_noIndex hk <| codedBy_oneByte bs fun _ => codedBy_ok rfl rfl
  | .packSeq, _, hk => codedBy_of_noIndex hk <| codedBy_oneByte bs fun b => codedBy_requireFixed fun hres =>
      codedBy_ok (encode_packSeq_of_byte b hres) rfl
  | .unpackDtype, _, hk => codedBy_of_noIndex hk <| codedBy_oneByte bs fun _ => codedBy_ok rfl rfl
  | .size2bpp, _, hk => codedBy_of_noIndex hk <| codedBy_oneByte bs fun b => codedBy_requireFixed fun hres =>
      codedBy_ok (encode_size2bpp_of_byte b hres) rfl
  | .bpp2size, _, hk => codedBy_of_noIndex hk <| codedBy_oneByte bs fun _ => codedBy_ok rfl rfl
  | .packDtype, _, hk => codedBy_of_noIndex hk <| codedBy_packDtype bs
  | .get8, _, hk => codedBy_noBytes bs (codedBy_ok rfl hk)
  | .get16be, _, hk => codedBy_noBytes bs (codedBy_ok rfl hk)
  | .get32be, _, hk => codedBy_noBytes bs (codedBy_ok rfl hk)
  | .put8, _, hk => codedBy_oneByte bs fun _ => codedBy_ok rfl hk
  | .put16be, k, hk => codedBy_twoBytes bs fun v => codedBy_ok (i := .put16be k v) rfl hk
  | .put32be, k, hk => codedBy_fourBytes bs fun v => codedBy_ok (i := .put32be k v) rfl hk
  | .slice, _, hk => codedBy_noBytes bs (codedBy_ok rfl hk)
  | .append, _, hk => codedBy_of_noIndex hk <| codedBy_noBytes bs (codedBy_ok rfl rfl)
  | .wireByte0, _, hk => codedBy_of_noIndex hk <| codedBy_oneByte bs fun _ => codedBy_ok rfl rfl
  | .wireByte1, _, hk => codedBy_of_noIndex hk <| codedBy_oneByte bs fun _ => codedBy_ok rfl rfl
  | .wireByte2, _, hk => codedBy_of_noIndex hk <| codedBy_oneByte bs fun _ => codedBy_ok rfl rfl
  | .wireByte3, _, hk => codedBy_of_noIndex hk <| codedBy_oneByte bs fun _ => codedBy_ok rfl rfl
  | .wireBytes4to7, _, hk => codedBy_of_noIndex hk <| codedBy_fourBytes bs fun _ => codedBy_ok rfl rfl
  | .wireBytes8to9, _, hk => codedBy_of_noIndex hk <| codedBy_twoBytes bs fun _ => codedBy_ok rfl rfl
  | .wireBytes10to13, _, hk => codedBy_of_noIndex hk <| codedBy_wireBytes10to13 bs
  | .wirePayload, _, hk => codedBy_of_noIndex hk <| codedBy_ok rfl rfl
  | .sizeCode0, _, hk => codedBy_of_noIndex hk <| codedBy_sizeRow bs fun _ _ _ => codedBy_ok rfl rfl
  | .sizeCode1, _, hk => codedBy_of_noIndex hk <| codedBy_sizeRow bs fun _ _ _ => codedBy_ok rfl rfl
  | .sizeCode2, _, hk => codedBy_of_noIndex hk <| codedBy_sizeRow bs fun _ _ _ => codedBy_ok rfl rfl
  | .sizeCode3, _, hk => codedBy_of_noIndex hk <| codedBy_sizeRow bs fun _ _ _ => codedBy_ok rfl rfl
  | .sizeCode4, _, hk => codedBy_of_noIndex hk <| codedBy_sizeRow bs fun _ _ _ => codedBy_ok rfl rfl
  | .sizeCode5, _, hk => codedBy_of_noIndex hk <| codedBy_sizeRow bs fun _ _ _ => codedBy_ok rfl rfl
  | .sizeCode6, _, hk => codedBy_of_noIndex hk <| codedBy_sizeRow bs fun _ _ _ => codedBy_ok rfl rfl
  | .sizeCode7, _, hk => codedBy_of_noIndex hk <| codedBy_sizeRow bs fun _ _ _ => codedBy_ok rfl rfl
  | .errOk, _, hk => codedBy_of_noIndex hk <| codedBy_constant 0 bs <| codedBy_ok rfl rfl
  | .errTooShort, _, hk => codedBy_of_noIndex hk <| codedBy_constant 1 bs <| codedBy_ok rfl rfl
  | .errUnknownSizeCode, _, hk => codedBy_of_noIndex hk <| codedBy_constant 2 bs <| codedBy_ok rfl rfl
  | .errUnsupportedBitsPerPixel, _, hk => codedBy_of_noIndex hk <| codedBy_constant 3 bs <| codedBy_ok rfl rfl
  | .errMissingTimecode, _, hk => codedBy_of_noIndex hk <| codedBy_constant 4 bs <| codedBy_ok rfl rfl

/-- Settles O52: a code decodes only at a legal index, and then as `decodeBits` reads its row. -/
theorem encodeOfDecodeIsCode : Obligations.EncodeOfDecodeIsCode := by
  intro c i h
  unfold decode at h
  split at h
  · next hk => exact codedBy_decodeBits c.bytes c.row c.index hk i h
  · cases h

end Sys2Proof.Machine
end

section
/-! SUPPORT. Proofs of the statements about the rows of the wire frame run one by one (R82 to R92): what each puts on its
ports, in the numbers of R90. -/

namespace Sys2Proof.Machine

open Sys2Proof.SpecForm

/-! ## The rows of whole fields and of the flags -/

theorem exec_wireByte0 (b : Byte) (s : State) :
    exec (.wireByte0 b) s = .next (s.setF (s.f.setFlags (unpackFlags b))) := rfl

theorem exec_wireByte1 (b : Byte) (s : State) :
    exec (.wireByte1 b) s = .next (s.setF { s.f with seq := unpackSeq b }) := rfl

theorem exec_wireByte3 (id : BitVec 8) (s : State) : exec (.wireByte3 id) s = .next (s.setF { s.f with id := id }) := rfl

theorem exec_wireBytes4to7 (offset : BitVec 32) (s : State) :
    exec (.wireBytes4to7 offset) s = .next (s.setF { s.f with offset := offset }) := rfl

theorem exec_wireBytes8to9 (length : BitVec 16) (s : State) :
    exec (.wireBytes8to9 length) s = .next (s.setF { s.f with length := length }) := rfl

/-- The six flags in numbers (R90). -/
theorem unpackFlags_eq (b : Byte) : unpackFlags b =
    (BitVec.ofNat 2 (b.toNat / 64), BitVec.ofNat 1 (b.toNat / 16), BitVec.ofNat 1 (b.toNat / 8),
      BitVec.ofNat 1 (b.toNat / 4), BitVec.ofNat 1 (b.toNat / 2), BitVec.ofNat 1 b.toNat) := by
  rw [unpackFlags, fldVer_unpack_eq, fldTc_unpack_eq, fldSt_unpack_eq, fldRp_unpack_eq, fldQy_unpack_eq, fldPu_unpack_eq]

theorem unpackSeq_eq (b : Byte) : unpackSeq b = BitVec.ofNat 4 b.toNat := fldSeq_unpack_eq b

/-- Settles O46: each row writes its ports, whose bits are the numbers of R90; a multi-byte row reads big-endian. -/
theorem wireRowsAssembleTheirPorts : Obligations.WireRowsAssembleTheirPorts := by
  intro b0 b1 b2 b3 s
  refine ⟨?_, ?_, exec_wireByte3 b0 s, fun v => exec_wireBytes4to7 v s, ?_, fun v => exec_wireBytes8to9 v s, ?_⟩
  · rw [exec_wireByte0, unpackFlags_eq]
    rfl
  · rw [exec_wireByte1, unpackSeq_eq]
    rfl
  · rw [← be32_eq]
    rfl
  · rw [← be16_eq]
    rfl

/-! ## The data-type byte -/

theorem unpackDtype_eq (b : Byte) : unpackDtype b =
    (BitVec.ofNat 1 (1 - b.toNat / 128), BitVec.ofNat 3 (b.toNat / 8), BitVec.ofNat 3 b.toNat) := by
  rw [unpackDtype, fldStd_unpack_eq, fldType_unpack_eq, fldSize_unpack_eq]

/-- The size code of a byte in numbers, through the table of R92. -/
theorem size2bpp_fldSize_unpack : ∀ b : Byte, size2bpp (fldSize.unpack b) =
    if b.toNat % 8 = 7 then none else some (BitVec.ofNat 8 (bitsOf (b.toNat % 8))) := by decide

theorem dataTypeByte_of_some {b : Byte} {bpp : BitVec 8} (s : State) (h : size2bpp (unpackDtype b).2.2 = some bpp) :
    dataTypeByte b s = s.setF { s.f with std := (unpackDtype b).1, type := (unpackDtype b).2.1, bpp := bpp } := by
  simp only [dataTypeByte, h]

theorem dataTypeByte_of_none {b : Byte} (s : State) (h : size2bpp (unpackDtype b).2.2 = none) :
    dataTypeByte b s = { s with err := some .unknownSizeCode, f := Ports.zero, pay := [] } := by
  simp only [dataTypeByte, h]
  exact raise_ofDec s rfl

/-- Settles O47: the table has an entry for every size code but 7. -/
theorem wireByteTwoGivesDataType : Obligations.WireByteTwoGivesDataType := by
  intro b s
  have hsize : size2bpp (unpackDtype b).2.2 = _ := size2bpp_fldSize_unpack b
  constructor
  · intro hz
    rw [if_neg hz] at hsize
    refine congrArg Host.Outcome.next ((dataTypeByte_of_some s hsize).trans ?_)
    rw [unpackDtype_eq]
    rfl
  · intro hz
    rw [if_pos hz] at hsize
    exact congrArg Host.Outcome.next (dataTypeByte_of_none s hsize)

/-- Byte 2 gives back the letters it was written from, the first inverted (R84). -/
theorem unpackDtype_dtypeByte : ∀ (n x : BitVec 1) (t z : BitVec 3),
    unpackDtype (dtypeByte n x t z) = (BitVec.ofNat 1 (1 - n.toNat), t, z) := by decide

/-- A size-code row sets the bits per pixel that the table pairs with its code (R92). -/
theorem dataTypeByte_dtypeByte (n x : BitVec 1) (t : BitVec 3) (s : State) {z : BitVec 3} {bpp : BitVec 8}
    (h : size2bpp z = some bpp) : dataTypeByte (dtypeByte n x t z) s =
      { s with f := { s.f with std := BitVec.ofNat 1 (1 - n.toNat), type := t, bpp := bpp } } := by
  have hbyte := unpackDtype_dtypeByte n x t z
  rw [dataTypeByte_of_some s (by rw [hbyte]; exact h), hbyte]
  rfl

/-- Settles O48: each row is the data-type byte with its code. -/
theorem sizeCodeRowsGiveBitsPerPixel : Obligations.SizeCodeRowsGiveBitsPerPixel := by
  intro n x t s
  constructor
  · intro i bits hmem
    simp only [List.mem_cons, Prod.mk.injEq, List.not_mem_nil, or_false] at hmem
    obtain ⟨rfl, rfl⟩ | ⟨rfl, rfl⟩ | ⟨rfl, rfl⟩ | ⟨rfl, rfl⟩ | ⟨rfl, rfl⟩ | ⟨rfl, rfl⟩ | ⟨rfl, rfl⟩ := hmem <;>
      exact congrArg Host.Outcome.next (dataTypeByte_dtypeByte n x t s rfl)
  · exact congrArg Host.Outcome.next (dataTypeByte_of_none s (by rw [unpackDtype_dtypeByte]; rfl))

/-! ## Bytes 10 to 13 and the payload -/

/-- With the flag set the timecode, present (R88). -/
theorem exec_wireBytes10to13_of_timed (sec frac : BitVec 16) {s : State} (h : s.f.tc = 1#1) :
    exec (.wireBytes10to13 sec frac) s = .next (s.setF { s.f with tcv := 1, sec := sec, frac := frac }) := if_pos h

/-- With the flag clear four payload bytes (R88, decision D11). -/
theorem exec_wireBytes10to13_of_untimed (sec frac : BitVec 16) {s : State} (h : s.f.tc ≠ 1#1) :
    exec (.wireBytes10to13 sec frac) s =
      .next ((s.setF { s.f with tcv := 0, sec := 0, frac := 0 }).setPay (s.pay ++ (bytes16 sec ++ bytes16 frac))) :=
  if_neg h

theorem exec_wirePayload (p : Bytes) (s : State) : exec (.wirePayload p) s = .next (s.setPay (s.pay ++ p)) := rfl

theorem bytes16_eq_two (v : BitVec 16) : bytes16 v = two v.toNat := bytes16_eq v

/-- Settles O49: the row of bytes 10 to 13 by the flag, and the payload row as an append, read byte by byte. -/
theorem timecodeAndPayloadRows : Obligations.TimecodeAndPayloadRows := by
  intro sec frac p s
  refine ⟨fun htc => ?_, fun htc => ?_, s.pay ++ p, exec_wirePayload p s, fun i hi => ?_, fun i => ?_⟩
  · exact ⟨_, exec_wireBytes10to13_of_timed sec frac htc, rfl, rfl⟩
  · rw [exec_wireBytes10to13_of_untimed sec frac (by rw [htc]; decide), bytes16_eq_two, bytes16_eq_two]
    rfl
  · exact List.getElem?_append_left hi
  · rw [byteAt?, List.getElem?_append_right (Nat.le_add_right _ _), Nat.add_sub_cancel_left]
    rfl

/-! ## Words written out -/

/-- Settles O53: each word is evaluated by the decoder. -/
theorem sampleWordsDecodeAsWritten : Obligations.SampleWordsDecodeAsWritten :=
  ⟨rfl, rfl, by decide, by decide, by decide, by decide, by decide⟩

end Sys2Proof.Machine
end

section
/-! SUPPORT. Proof that only `DEC` and `ENC` answer the host (R100): one rule for each form a meaning is built from. -/

namespace Sys2Proof.Machine

/-- `t` has the requests, responses, bound and command of `s`. -/
def SameHostSide (s t : State) : Prop :=
  t.inbox = s.inbox ∧ t.maxWire = s.maxWire ∧ t.op = s.op ∧ t.outbox = s.outbox

/-- If `o` goes on from `s`, it leaves what the host sees as it was. -/
def LeavesHostSide (s : State) (o : Host.Outcome State Fault Refusal) : Prop := ∀ t, o = .next t → SameHostSide s t

section
variable {s u : State}

theorem leavesHostSide_next (h : SameHostSide s u) : LeavesHostSide s (.next u) := by
  rintro _ ⟨⟩
  exact h

theorem leavesHostSide_inWire (i n : Nat) (h : SameHostSide s u) : LeavesHostSide s (inWire s i n u) := by
  intro t ht
  obtain ⟨-, rfl⟩ := (inWire_next_iff s i n u t).1 ht
  exact h

theorem leavesHostSide_atEndOfW (i : Nat) (h : SameHostSide s u) : LeavesHostSide s (atEndOfW s i u) := by
  intro t ht
  obtain ⟨-, rfl⟩ := (atEndOfW_next_iff s i u t).1 ht
  exact h

end

/-- The error response is no delivered response until its operation delivers it (R210). -/
theorem sameHostSide_raise (s : State) (e : DdpError) : SameHostSide s (s.raise e) := by
  cases e <;> exact ⟨rfl, rfl, rfl, rfl⟩

theorem sameHostSide_dataTypeByte (b : Byte) (s : State) : SameHostSide s (dataTypeByte b s) := by
  cases hz : size2bpp (unpackDtype b).2.2 with
  | none =>
    rw [dataTypeByte_of_none s hz]
    exact ⟨rfl, rfl, rfl, rfl⟩
  | some bpp =>
    rw [dataTypeByte_of_some s hz]
    exact ⟨rfl, rfl, rfl, rfl⟩

theorem leavesHostSide_wireBytes10to13 (sec frac : BitVec 16) (s : State) :
    LeavesHostSide s (exec (.wireBytes10to13 sec frac) s) := by
  by_cases htc : s.f.tc = 1#1
  · rw [exec_wireBytes10to13_of_timed sec frac htc]
    exact leavesHostSide_next ⟨rfl, rfl, rfl, rfl⟩
  · rw [exec_wireBytes10to13_of_untimed sec frac htc]
    exact leavesHostSide_next ⟨rfl, rfl, rfl, rfl⟩

/-- The internal rows leave what the host sees (R100): loads and slices past their check, stores past theirs, byte 2 and
the errors through what they raise, all others by the one field they write. -/
theorem exec_leavesHostSide (i : Instr) (s : State) (hdec : i ≠ .dec) (henc : i ≠ .enc) :
    LeavesHostSide s (exec i s) := by
  cases i with
  | dec => exact absurd rfl hdec
  | enc => exact absurd rfl henc
  | get8 | get16be | get32be | slice => exact leavesHostSide_inWire _ _ ⟨rfl, rfl, rfl, rfl⟩
  | put8 | put16be | put32be => exact leavesHostSide_atEndOfW _ ⟨rfl, rfl, rfl, rfl⟩
  | wireByte2 | sizeCode0 | sizeCode1 | sizeCode2 | sizeCode3 | sizeCode4 | sizeCode5 | sizeCode6 | sizeCode7 =>
    exact leavesHostSide_next (sameHostSide_dataTypeByte _ s)
  | errTooShort | errUnknownSizeCode | errUnsupportedBitsPerPixel | errMissingTimecode =>
    exact leavesHostSide_next (sameHostSide_raise s _)
  | wireBytes10to13 sec frac => exact leavesHostSide_wireBytes10to13 sec frac s
  | _ => exact leavesHostSide_next ⟨rfl, rfl, rfl, rfl⟩

/-- Settles O9: `DEC` and `ENC` write no more than their results and their response, every other row not even that. -/
theorem onlyDecAndEncAnswerTheHost : Obligations.OnlyDecAndEncAnswerTheHost := by
  intro i s t h
  by_cases hdec : i = .dec
  · subst hdec
    cases (exec_dec s).symm.trans h
    exact ⟨rfl, rfl, rfl, fun hne => absurd rfl hne⟩
  by_cases henc : i = .enc
  · subst henc
    cases (exec_enc s).symm.trans h
    exact ⟨rfl, rfl, rfl, fun _ hne => absurd rfl hne⟩
  obtain ⟨hin, hmax, hop, hout⟩ := exec_leavesHostSide i s hdec henc t h
  exact ⟨hin, hmax, hop, fun _ _ => hout⟩

end Sys2Proof.Machine
end

section
/-! SUPPORT. Proofs of the statements about the bits of a frame that `DEC` reads (R90, R93, R98, R128): its ports in the
numbers of R90, the reserved bits, and the frame read by its wire rows. -/

namespace Sys2Proof.Machine

open Sys2Proof.SpecForm

/-! ## The ports of a legal frame in numbers -/

/-- The timecode flag of the spec form is the port `TC` (R82). -/
theorem flagged_iff (w : Bytes) : flagged w = true ↔ (unpackFlags (get8 w 0)).2.1 = 1#1 := by
  have hbit : ∀ b : Byte, (b.toNat / 16 % 2 == 1) = true ↔ fldTc.unpack b = 1#1 := by decide
  exact hbit (byteAt w 0)

/-- The ports of bytes 0 to 9 are those of R90 but for the timecode. -/
theorem headerPorts_eq_untimed_ports (w : Bytes) : headerPorts w (BitVec.ofNat 8 (bitsOf (at' w 2 % 8))) =
    { SpecForm.ports w with tcv := 0, sec := 0, frac := 0 } := by
  simp only [headerPorts, unpackFlags_eq, unpackDtype_eq, unpackSeq_eq, get32be, get16be, be32_eq, be16_eq]
  simp only [SpecForm.ports, at', get8, byteAt, BitVec.ofNat_toNat, BitVec.setWidth_eq]

theorem headerPorts_eq_ports {w : Bytes} (h : (unpackFlags (get8 w 0)).2.1 ≠ 1#1) :
    headerPorts w (BitVec.ofNat 8 (bitsOf (at' w 2 % 8))) = SpecForm.ports w := by
  have htc : (SpecForm.ports w).tcv = 0 := by
    rw [unpackFlags_eq] at h
    exact (BitVec.eq_zero_or_eq_one _).resolve_right h
  have hflag : ¬ flagged w = true := fun hf => h ((flagged_iff w).1 hf)
  rw [headerPorts_eq_untimed_ports]
  simp only [SpecForm.ports, if_neg hflag] at htc ⊢
  rw [htc]

theorem timedPorts_eq_ports {w : Bytes} (h : (unpackFlags (get8 w 0)).2.1 = 1#1) :
    timedPorts w (BitVec.ofNat 8 (bitsOf (at' w 2 % 8))) = SpecForm.ports w := by
  have htc : (SpecForm.ports w).tcv = 1 := by
    rw [unpackFlags_eq] at h
    exact h
  have hflag : flagged w = true := (flagged_iff w).2 h
  rw [timedPorts, headerPorts_eq_untimed_ports, get16be, get16be, be16_eq, be16_eq]
  simp only [SpecForm.ports, if_pos hflag] at htc ⊢
  rw [htc]
  rfl

/-! ## Decoding a legal frame -/

theorem decFrame_of_timed {w : Bytes} {bpp : BitVec 8} (hz : size2bpp (unpackDtype (get8 w 2)).2.2 = some bpp)
    (htc : (unpackFlags (get8 w 0)).2.1 = 1#1) (hlen : 14 ≤ w.length) :
    decFrame w = .ok (timedPorts w bpp, slice w 14) := by
  rw [decFrame_of_some (by omega) hz, if_neg (Nat.not_lt.2 hlen)]
  exact if_pos htc

theorem decFrame_of_untimed {w : Bytes} {bpp : BitVec 8} (hz : size2bpp (unpackDtype (get8 w 2)).2.2 = some bpp)
    (htc : (unpackFlags (get8 w 0)).2.1 ≠ 1#1) (hlen : 10 ≤ w.length) :
    decFrame w = .ok (headerPorts w bpp, slice w 10) :=
  (decFrame_of_some hlen hz).trans (if_neg htc)

/-- A legal frame passes the checks of `DEC`: its size code is in the table, and it is as long as its flag asks (R94). -/
theorem legalFrame_checks {w : Bytes} (h : legalFrame w = true) :
    size2bpp (unpackDtype (get8 w 2)).2.2 = some (BitVec.ofNat 8 (bitsOf (at' w 2 % 8))) ∧
      ((unpackFlags (get8 w 0)).2.1 = 1#1 ∧ 14 ≤ w.length ∨ (unpackFlags (get8 w 0)).2.1 ≠ 1#1 ∧ 10 ≤ w.length) := by
  obtain ⟨hten, hlong, hsize⟩ := (legalFrame_iff w).1 h
  constructor
  · have hz : ∀ b : Byte, b &&& 7#8 ≠ 7 → b.toNat % 8 ≠ 7 := by decide
    exact (size2bpp_fldSize_unpack (byteAt w 2)).trans (if_neg (hz _ hsize))
  · by_cases htc : (unpackFlags (get8 w 0)).2.1 = 1#1
    · exact .inl ⟨htc, hlong.resolve_left ((fldTc_unpack_one _).1 htc)⟩
    · exact .inr ⟨htc, hten⟩

/-- A legal frame decodes to the ports of R90 and to the bytes after its header (R128). -/
theorem decFrame_of_legal {w : Bytes} (h : legalFrame w = true) :
    decFrame w = .ok (SpecForm.ports w, w.drop (headerOf w)) := by
  obtain ⟨hz, ⟨htc, hlen⟩ | ⟨htc, hlen⟩⟩ := legalFrame_checks h
  · rw [decFrame_of_timed hz htc hlen, timedPorts_eq_ports htc, headerOf, if_pos ((flagged_iff w).2 htc)]
    rfl
  · rw [decFrame_of_untimed hz htc hlen, headerPorts_eq_ports htc, headerOf, if_neg (mt (flagged_iff w).1 htc)]
    rfl

/-- Settles O10: a legal frame decodes, and size code 7 does not. -/
theorem decFillsEveryPortFromItsBits : Obligations.DecFillsEveryPortFromItsBits := by
  intro s
  refine ⟨fun h => ?_, fun hlen hz => ⟨_, exec_dec s, ?_⟩⟩
  · rw [exec_dec, decResult_of_ok (decFrame_of_legal h)]
    rfl
  · have hsize : size2bpp (unpackDtype (get8 s.wire 2)).2.2 = none :=
      (size2bpp_fldSize_unpack (byteAt s.wire 2)).trans (if_pos hz)
    rw [decResult_of_error (decFrame_of_seven hlen ((size2bpp_none_iff _).1 hsize))]
    exact Option.some_ne_none _

/-! ## The frame read by its wire rows -/

/-- The bytes of a 16-bit load are those of the frame (R190). -/
theorem drop_eq_bytes16 {w : Bytes} {i : Nat} (h : i + 2 ≤ w.length) :
    w.drop i = bytes16 (get16be w i) ++ w.drop (i + 2) := by
  rw [show bytes16 (get16be w i) = (w.drop i).take 2 from (loadStoreLaws_hold [] w i).2.1 h, ← List.drop_drop,
    List.take_append_drop]

/-- The bytes of a 32-bit load are those of the frame (R190). -/
theorem drop_eq_bytes32 {w : Bytes} {i : Nat} (h : i + 4 ≤ w.length) :
    w.drop i = bytes32 (get32be w i) ++ w.drop (i + 4) := by
  rw [show bytes32 (get32be w i) = (w.drop i).take 4 from (loadStoreLaws_hold [] w i).2.2 h, ← List.drop_drop,
    List.take_append_drop]

/-- Of two writes of the ports the second stands. -/
theorem setF_setF (s : State) (f g : Ports) : (s.setF f).setF g = s.setF g := rfl

/-- The rows of bytes 0 to 9 of a frame with a size code leave its header ports (R82 to R87). -/
theorem wireSequence_of_some {w : Bytes} {bpp : BitVec 8} {s : State} (hf : s.f = Ports.zero)
    (hz : size2bpp (unpackDtype (get8 w 2)).2.2 = some bpp) :
    wireSequence w s = if w.length < 14 then exec (.wirePayload (slice w 10)) (s.setF (headerPorts w bpp))
      else andThen (exec (.wireBytes10to13 (get16be w 10) (get16be w 12)) (s.setF (headerPorts w bpp)))
        (exec (.wirePayload (slice w 14))) := by
  have hrow2 : ∀ u : State, exec (.wireByte2 (get8 w 2)) u = _ := fun u =>
    congrArg Host.Outcome.next (dataTypeByte_of_some u hz)
  simp only [wireSequence, exec_wireByte0, exec_wireByte1, hrow2, exec_wireByte3, exec_wireBytes4to7, exec_wireBytes8to9,
    andThen_next, setF_f, setF_setF, hf]
  rfl

/-- A frame that decodes leaves its packet in the ports when its rows run (R90). With the flag clear, bytes 10 to 13 open
the payload, whether the frame has them all or not. -/
theorem wireSequence_of_decFrame_ok {w : Bytes} {f : Ports} {p : Bytes} {s : State} (h : decFrame w = .ok (f, p))
    (hf : s.f = Ports.zero) (hpay : s.pay = []) : wireSequence w s = .next ((s.setF f).setPay p) := by
  obtain ⟨hten, bpp, hz, ⟨htc, hlen, rfl, rfl⟩ | ⟨htc, rfl, rfl⟩⟩ := decFrame_ok h
  · rw [wireSequence_of_some hf hz, if_neg (Nat.not_lt.2 hlen), exec_wireBytes10to13_of_timed _ _ htc, andThen_next,
      exec_wirePayload, setF_pay, setF_pay, hpay]
    rfl
  · rw [wireSequence_of_some hf hz]
    split
    · rw [exec_wirePayload, setF_pay, hpay]
      rfl
    · next hlen =>
      rw [exec_wireBytes10to13_of_untimed _ _ htc, andThen_next, exec_wirePayload, setPay_pay, setF_pay, hpay, slice,
        slice, drop_eq_bytes16 (show 10 + 2 ≤ w.length by omega), drop_eq_bytes16 (show 12 + 2 ≤ w.length by omega),
        List.nil_append, List.append_assoc]
      rfl

/-- Settles O34: a legal frame decodes, and its rows leave the decoded packet. -/
theorem wireRowsReadFrameAsDecDoes : Obligations.WireRowsReadFrameAsDecDoes := by
  intro s hlegal hf hpay
  have hdec := decFrame_of_legal hlegal
  refine ⟨_, _, wireSequence_of_decFrame_ok hdec hf hpay, exec_dec s, ?_⟩
  rw [decResult_of_ok hdec]
  exact ⟨rfl, rfl⟩

/-! ## The reserved bits -/

theorem headerPorts_clear (b0 b1 b2 : Byte) (rest : Bytes) (bpp : BitVec 8) :
    headerPorts ((b0 &&& 0xDF#8) :: (b1 &&& 0x0F#8) :: (b2 &&& 0xBF#8) :: rest) bpp =
      headerPorts (b0 :: b1 :: b2 :: rest) bpp := by
  simp only [headerPorts, get8, byteAt, List.getD_cons_zero, List.getD_cons_succ, unpackFlags_clear, unpackSeq_clear,
    unpackDtype_clear]
  rfl

/-- `DEC` reads none of the six reserved bits (R93, decision D12). -/
theorem decFrame_clearReserved (w : Bytes) : decFrame (clearReserved w) = decFrame w := by
  match w with
  | [] | [_] | [_, _] => rfl
  | b0 :: b1 :: b2 :: rest =>
    simp only [clearReserved, decFrame, headerPorts_clear]
    simp only [get8, byteAt, List.getD_cons_zero, List.getD_cons_succ, unpackDtype_clear]
    rfl

theorem decResult_clearReserved (w : Bytes) : decResult (clearReserved w) = decResult w := by
  rw [decResult, decResult, decFrame_clearReserved]

/-- Settles O15: `DEC` of a frame is `DEC` of the frame with its reserved bits cleared. -/
theorem decIgnoresReservedBits : Obligations.DecIgnoresReservedBits := by
  intro s s' h
  have hres : decResult s'.wire = decResult s.wire := by
    rw [← decResult_clearReserved s'.wire, ← h, decResult_clearReserved]
  refine ⟨_, _, exec_dec s, exec_dec s', ?_⟩
  rw [hres]
  exact ⟨rfl, rfl, rfl⟩

/-! ## The canonical frame -/

theorem clearReserved_length (w : Bytes) : (clearReserved w).length = w.length := by
  unfold clearReserved
  split <;> rfl

theorem clearReserved_eq {w : Bytes} (h : 3 ≤ w.length) : clearReserved w =
    (byteAt w 0 &&& 0xDF#8) :: (byteAt w 1 &&& 0x0F#8) :: (byteAt w 2 &&& 0xBF#8) :: w.drop 3 := by
  match w, h with
  | _ :: _ :: _ :: _, _ => rfl

/-- Clearing the reserved bits of a legal frame leaves it legal, and so canonical (R98). -/
theorem canonicalFrame_clearReserved {w : Bytes} (h : legalFrame w = true) :
    canonicalFrame (clearReserved w) = true := by
  obtain ⟨hten, hlong, hsize⟩ := (legalFrame_iff w).1 h
  have hflags : ∀ b : Byte, b &&& 0xDF#8 &&& 0x10#8 = b &&& 0x10#8 ∧ b &&& 0xDF#8 &&& 0x20#8 = 0 := by decide
  have hseq : ∀ b : Byte, b &&& 0x0F#8 &&& 0xF0#8 = 0 := by decide
  have hdtype : ∀ b : Byte, b &&& 0xBF#8 &&& 7#8 = b &&& 7#8 ∧ b &&& 0xBF#8 &&& 0x40#8 = 0 := by decide
  have hlen : (clearReserved w).length = w.length := clearReserved_length w
  rw [clearReserved_eq (by omega)] at hlen ⊢
  rw [canonicalFrame_iff, legalFrame_iff, hlen]
  refine ⟨⟨hten, hlong.imp_left (hflags _).1.trans, fun h7 => hsize ((hdtype _).1.symm.trans h7)⟩, (hflags _).2, hseq _,
    (hdtype _).2⟩

/-- A canonical frame has no reserved bit to clear (R98). -/
theorem clearReserved_of_canonical {w : Bytes} (h : canonicalFrame w = true) : clearReserved w = w := by
  obtain ⟨hlegal, h0, h1, h2⟩ := (canonicalFrame_iff w).1 h
  obtain ⟨hten, -, -⟩ := (legalFrame_iff w).1 hlegal
  have hflags : ∀ b : Byte, b &&& 0x20#8 = 0 → b &&& 0xDF#8 = b := by decide
  have hseq : ∀ b : Byte, b &&& 0xF0#8 = 0 → b &&& 0x0F#8 = b := by decide
  have hdtype : ∀ b : Byte, b &&& 0x40#8 = 0 → b &&& 0xBF#8 = b := by decide
  rw [clearReserved_eq (by omega), hflags _ h0, hseq _ h1, hdtype _ h2, ← drop_eq_byteAt_cons (by omega),
    ← drop_eq_byteAt_cons (by omega), ← drop_eq_byteAt_cons (by omega)]
  rfl

/-- The header that `ENC` makes of the ports of a frame is the frame's, its reserved bits cleared (R151). -/
theorem headerBytes_headerPorts {w : Bytes} (h : 10 ≤ w.length) (bpp : BitVec 8) :
    headerBytes (headerPorts w bpp) (unpackDtype (get8 w 2)).2.2 ++ w.drop 10 = clearReserved w := by
  rw [clearReserved_eq (by omega), drop_eq_byteAt_cons (show 3 < w.length by omega),
    drop_eq_bytes32 (show 4 + 4 ≤ w.length by omega), drop_eq_bytes16 (show 8 + 2 ≤ w.length by omega),
    ← packFlags_unpackFlags, ← packSeq_unpackSeq, ← packDtype_unpackDtype]
  rfl

theorem encPacket_of_timed {f : Ports} {z : BitVec 3} (p : Bytes) (hz : bpp2size f.bpp = some z) (htc : f.tc = 1#1)
    (htcv : f.tcv ≠ 0#1) : encPacket f p = .ok (timedBytes f z ++ p) := by
  rw [encPacket_of_some p hz, if_pos htc, if_neg htcv]

theorem encPacket_of_untimed {f : Ports} {z : BitVec 3} (p : Bytes) (hz : bpp2size f.bpp = some z) (htc : f.tc ≠ 1#1) :
    encPacket f p = .ok (headerBytes f z ++ p) := by
  rw [encPacket_of_some p hz, if_neg htc]

/-- What a frame decodes to encodes to the frame with its reserved bits cleared (R151). -/
theorem encPacket_of_decFrame_ok {w : Bytes} {f : Ports} {p : Bytes} (h : decFrame w = .ok (f, p)) :
    encPacket f p = .ok (clearReserved w) := by
  obtain ⟨hten, bpp, hz, ⟨htc, hlen, rfl, rfl⟩ | ⟨htc, rfl, rfl⟩⟩ := decFrame_ok h
  · refine (encPacket_of_timed _ ((size2bpp_some_iff _ _).1 hz) htc (show 1#1 ≠ 0#1 by decide)).trans
      (congrArg Except.ok ?_)
    rw [← headerBytes_headerPorts hten bpp, drop_eq_bytes16 (show 10 + 2 ≤ w.length by omega),
      drop_eq_bytes16 (show 12 + 2 ≤ w.length by omega)]
    rfl
  · exact (encPacket_of_untimed _ ((size2bpp_some_iff _ _).1 hz) htc).trans
      (congrArg Except.ok (headerBytes_headerPorts hten bpp))

/-- Two frames that decode to one packet differ in reserved bits only. -/
theorem clearReserved_eq_of_decFrame_ok {v w : Bytes} {r : Ports × Bytes} (hv : decFrame v = .ok r)
    (hw : decFrame w = .ok r) : clearReserved v = clearReserved w :=
  Except.ok.inj ((encPacket_of_decFrame_ok hv).symm.trans (encPacket_of_decFrame_ok hw))

/-- Settles O30: the decoded packet encodes to the cleared frame, so two canonical frames with one result are equal. -/
theorem canonicalFrameIsUnique : Obligations.CanonicalFrameIsUnique := by
  intro s hlegal
  refine ⟨canonicalFrame_clearReserved hlegal, _, exec_dec s, fun s' hcan => ⟨_, exec_dec s', ?_, fun hwire => ?_⟩⟩
  · rintro ⟨-, hf, hpay⟩
    have hdec := decFrame_of_legal hlegal
    have hdec' := decFrame_of_legal ((canonicalFrame_iff _).1 hcan).1
    rw [decResult_of_ok hdec, decResult_of_ok hdec'] at hf hpay
    rw [← clearReserved_of_canonical hcan]
    exact clearReserved_eq_of_decFrame_ok hdec' (hdec.trans (congrArg Except.ok (Prod.ext hf.symm hpay.symm)))
  · rw [hwire, decResult_clearReserved]
    exact ⟨rfl, rfl, rfl⟩

end Sys2Proof.Machine
end

section
/-! SUPPORT. Proofs of the decode statements: the one response of an admitted request (R130, R149), the two length checks
(R122, R127), the declared length (R129) and the bits of byte 0 (R135). -/

namespace Sys2Proof.Machine

open Sys2Proof.SpecForm

/-! ## One response per request -/

/-- The answer is one of `DEC` exactly when the request is for `DEC` (R42, R43). -/
theorem op_eq_zero_iff_answerOf_dec (r : Request) : r.op = 0#1 ↔ ∃ e f p, answerOf r = .dec e f p := by
  constructor
  · intro h
    exact ⟨_, _, _, answerOf_dec h⟩
  · rintro ⟨e, f, p, h⟩
    refine (BitVec.eq_zero_or_eq_one r.op).resolve_right fun h1 => ?_
    rw [answerOf_enc h1] at h
    cases h

/-- Settles O4: the response is `answerOf` of the request, and its transaction leaves nothing else. -/
theorem admittedRequestGetsOneResponse : Obligations.AdmittedRequestGetsOneResponse := fun s r rest hin hadm =>
  ⟨answerOf r, op_eq_zero_iff_answerOf_dec r, (step_of_admitted hin hadm).trans (transact_eq s r rest)⟩

/-! ## The answer of `DEC`, by how the algorithm ends -/

theorem exec_dec_of_ok {s : State} {f : Ports} {p : Bytes} (h : decFrame s.wire = .ok (f, p)) :
    exec .dec s = .next (decAnswer s none f p) := by
  rw [exec_dec, decResult_of_ok h]
  rfl

theorem exec_dec_of_error {s : State} {e : DdpError} (h : decFrame s.wire = .error e) :
    exec .dec s = .next (decAnswer s (some e) Ports.zero []) := by
  rw [exec_dec, decResult_of_error h]
  rfl

/-! ## The two length checks -/

/-- Settles O11: the first check of `DEC` fails. -/
theorem decBelowTenBytesIsTooShort : Obligations.DecBelowTenBytesIsTooShort := fun _ h =>
  ⟨_, exec_dec_of_error (decFrame_of_lt h), rfl⟩

/-- The second check of `DEC` fails: the flag is set and bytes 10 to 13 are not all there (R127). -/
theorem decFrame_of_timed_short {w : Bytes} {bpp : BitVec 8} (hten : 10 ≤ w.length)
    (hz : size2bpp (unpackDtype (get8 w 2)).2.2 = some bpp) (htc : (unpackFlags (get8 w 0)).2.1 = 1#1)
    (hlen : w.length < 14) : decFrame w = .error .tooShort := by
  rw [decFrame_of_some hten hz, if_pos hlen]
  exact if_pos htc

/-- Settles O12: one case of the algorithm for each clause. -/
theorem decTimecodeAndSecondLengthCheck : Obligations.DecTimecodeAndSecondLengthCheck := by
  intro s hten hsize
  have hz : size2bpp (unpackDtype (get8 s.wire 2)).2.2 = _ :=
    (size2bpp_fldSize_unpack (byteAt s.wire 2)).trans (if_neg hsize)
  refine ⟨fun hflag hlen => ?_, fun hflag hlen => ?_, fun hflag => ?_⟩
  · have htc := (flagged_iff s.wire).1 hflag
    exact ⟨_, exec_dec_of_error (decFrame_of_timed_short hten hz htc hlen), rfl⟩
  · have htc := (flagged_iff s.wire).1 hflag
    refine ⟨_, exec_dec_of_ok (decFrame_of_timed hz htc hlen), rfl, ?_, rfl⟩
    rw [at', at', at', at', ← be16_eq, ← be16_eq]
    rfl
  · have htc := mt (flagged_iff s.wire).2 (Bool.eq_false_iff.1 hflag)
    exact ⟨_, exec_dec_of_ok (decFrame_of_untimed hz htc hten), rfl, rfl, rfl, rfl, rfl⟩

/-! ## The declared length -/

section
variable (w : Bytes) (x y : Byte)

/-- Other bytes 8 and 9 leave every other byte as it is. -/
theorem getD_set_length {i : Nat} (h8 : i ≠ 8) (h9 : i ≠ 9) :
    ((w.set 8 x).set 9 y).getD i 0 = w.getD i 0 := by
  simp only [List.getD_eq_getElem?_getD, List.getElem?_set_ne h8.symm, List.getElem?_set_ne h9.symm]

theorem legalFrame_set_length : legalFrame ((w.set 8 x).set 9 y) = legalFrame w := by
  simp (disch := decide) only [legalFrame, byteAt, List.length_set, getD_set_length]

theorem flagged_set_length : flagged ((w.set 8 x).set 9 y) = flagged w := by
  simp (disch := decide) only [flagged, at', getD_set_length]

/-- Bytes 8 and 9 lie in the header, so the payload is the same (R81). -/
theorem drop_headerOf_set_length : ((w.set 8 x).set 9 y).drop (headerOf ((w.set 8 x).set 9 y)) = w.drop (headerOf w) := by
  have hheader : 9 < headerOf w := by
    unfold headerOf
    split <;> decide
  rw [headerOf, flagged_set_length, ← headerOf, List.drop_set_of_lt hheader, List.drop_set_of_lt (by omega)]

/-- Bytes 8 and 9 are the port `LENGTH` and no other (R87). -/
theorem ports_set_length (h : 10 ≤ w.length) : SpecForm.ports ((w.set 8 x).set 9 y) =
    { SpecForm.ports w with length := BitVec.ofNat 16 (256 * x.toNat + y.toNat) } := by
  have h8 : ((w.set 8 x).set 9 y).getD 8 0 = x := by grind
  have h9 : ((w.set 8 x).set 9 y).getD 9 0 = y := by grind
  simp (disch := decide) only [SpecForm.ports, flagged_set_length, at', h8, h9, getD_set_length]

end

/-- Settles O17: both frames are legal, and they agree but for bytes 8 and 9. -/
theorem decNeverUsesDeclaredLength : Obligations.DecNeverUsesDeclaredLength := by
  intro s x y hlegal
  have hten : 10 ≤ s.wire.length := ((legalFrame_iff _).1 hlegal).1
  have hlegal' : legalFrame ((s.wire.set 8 x).set 9 y) = true := (legalFrame_set_length s.wire x y).trans hlegal
  exact ⟨_, _, exec_dec_of_ok (decFrame_of_legal hlegal), exec_dec_of_ok (decFrame_of_legal hlegal'), rfl, rfl, rfl,
    drop_headerOf_set_length s.wire x y, ports_set_length s.wire x y hten⟩

/-! ## Toggled bits of byte 0 -/

/-- The ports with the flags complemented whose bits are set in `m`: what toggling byte 0 with mask `m` makes of the
fields of the layout table (R160). -/
def Ports.toggle (f : Ports) (m : Byte) : Ports :=
  { f with ver := f.ver ^^^ fldVer.unpack m, tc := f.tc ^^^ fldTc.unpack m, st := f.st ^^^ fldSt.unpack m,
           rp := f.rp ^^^ fldRp.unpack m, qy := f.qy ^^^ fldQy.unpack m, pu := f.pu ^^^ fldPu.unpack m }

/-- Toggling in numbers (R90). -/
theorem toggle_eq (f : Ports) (m : Byte) : f.toggle m =
    { f with ver := f.ver ^^^ BitVec.ofNat 2 (m.toNat / 64), tc := f.tc ^^^ BitVec.ofNat 1 (m.toNat / 16),
             st := f.st ^^^ BitVec.ofNat 1 (m.toNat / 8), rp := f.rp ^^^ BitVec.ofNat 1 (m.toNat / 4),
             qy := f.qy ^^^ BitVec.ofNat 1 (m.toNat / 2), pu := f.pu ^^^ BitVec.ofNat 1 m.toNat } := by
  rw [Ports.toggle, fldVer_unpack_eq, fldTc_unpack_eq, fldSt_unpack_eq, fldRp_unpack_eq, fldQy_unpack_eq,
    fldPu_unpack_eq]

/-- The bits of byte 0 but bit 4, each with what toggling it makes of the ports (R135). -/
def flagToggles (f : Ports) : List (Byte × Ports) :=
  [(0x01#8, { f with pu := ~~~ f.pu }), (0x02#8, { f with qy := ~~~ f.qy }), (0x04#8, { f with rp := ~~~ f.rp }),
   (0x08#8, { f with st := ~~~ f.st }), (0x20#8, f), (0x40#8, { f with ver := f.ver ^^^ 1#2 }),
   (0x80#8, { f with ver := f.ver ^^^ 2#2 })]

theorem xor_one_eq_not : ∀ v : BitVec 1, v ^^^ 1#1 = ~~~ v := by decide

/-- Each of these masks leaves the timecode flag, and toggles its own field alone. -/
theorem toggle_of_mem_flagToggles {f g : Ports} {m : Byte} (h : (m, g) ∈ flagToggles f) :
    fldTc.unpack m = 0 ∧ f.toggle m = g := by
  simp only [flagToggles, List.mem_cons, Prod.mk.injEq, List.not_mem_nil, or_false] at h
  obtain ⟨rfl, rfl⟩ | ⟨rfl, rfl⟩ | ⟨rfl, rfl⟩ | ⟨rfl, rfl⟩ | ⟨rfl, rfl⟩ | ⟨rfl, rfl⟩ | ⟨rfl, rfl⟩ := h <;>
    simp [toggle_eq, fldTc_unpack_eq, xor_one_eq_not]

/-- Bit 4 is `TC` and no other port (R82). -/
theorem toggle_timecodeBit (f : Ports) : f.toggle 0x10#8 = { f with tc := ~~~ f.tc } := by
  simp [toggle_eq, xor_one_eq_not]

/-- A field that is not inverted takes a toggled byte to its toggled value. -/
theorem unpack_xor {n : Nat} {fd : BitField n} (h : fd.inverted = false) (b m : Byte) :
    fd.unpack (b ^^^ m) = fd.unpack b ^^^ fd.unpack m := by
  simp [BitField.unpack, h, BitVec.extractLsb'_xor]

section
variable (b m : Byte) (rest : Bytes)

/-- Of the ports of a frame, byte 0 toggled with `m` changes its flags by `m`, and otherwise those of the timecode only. -/
theorem ports_xor_cons : SpecForm.ports ((b ^^^ m) :: rest) =
    { (SpecForm.ports (b :: rest)).toggle m with
      tcv := (SpecForm.ports ((b ^^^ m) :: rest)).tcv, sec := (SpecForm.ports ((b ^^^ m) :: rest)).sec,
      frac := (SpecForm.ports ((b ^^^ m) :: rest)).frac } := by
  simp only [Ports.toggle, SpecForm.ports, at', List.getD_cons_zero, List.getD_cons_succ, ← fldVer_unpack_eq,
    ← fldTc_unpack_eq, ← fldSt_unpack_eq, ← fldRp_unpack_eq, ← fldQy_unpack_eq, ← fldPu_unpack_eq,
    unpack_xor (fd := fldVer) rfl, unpack_xor (fd := fldTc) rfl, unpack_xor (fd := fldSt) rfl,
    unpack_xor (fd := fldRp) rfl, unpack_xor (fd := fldQy) rfl, unpack_xor (fd := fldPu) rfl]

/-- Legality of a frame by its first byte's timecode flag (R94). -/
theorem legalFrame_cons_iff : legalFrame (b :: rest) = true ↔
    10 ≤ (b :: rest).length ∧ (fldTc.unpack b = 1#1 → 14 ≤ (b :: rest).length) ∧ byteAt rest 1 &&& 7#8 ≠ 7 := by
  rw [legalFrame_iff, fldTc_unpack_one, Ne, ← or_iff_not_imp_left]
  rfl

section
variable {m} (hm : fldTc.unpack m = 0)
include hm

theorem fldTc_unpack_xor : fldTc.unpack (b ^^^ m) = fldTc.unpack b := by
  rw [unpack_xor rfl, hm]
  exact BitVec.xor_zero

theorem legalFrame_xor_cons : legalFrame ((b ^^^ m) :: rest) = legalFrame (b :: rest) := by
  rw [Bool.eq_iff_iff, legalFrame_cons_iff, legalFrame_cons_iff, fldTc_unpack_xor b hm]
  rfl

theorem flagged_xor_cons : flagged ((b ^^^ m) :: rest) = flagged (b :: rest) := by
  rw [Bool.eq_iff_iff, flagged_iff, flagged_iff]
  exact iff_of_eq (congrArg (· = 1#1) (fldTc_unpack_xor b hm))

theorem drop_headerOf_xor_cons :
    ((b ^^^ m) :: rest).drop (headerOf ((b ^^^ m) :: rest)) = (b :: rest).drop (headerOf (b :: rest)) := by
  rw [headerOf, flagged_xor_cons b rest hm, headerOf]
  split <;> rfl

theorem ports_xor_cons_of_tc : SpecForm.ports ((b ^^^ m) :: rest) = (SpecForm.ports (b :: rest)).toggle m := by
  have htcv : (SpecForm.ports ((b ^^^ m) :: rest)).tcv = (SpecForm.ports (b :: rest)).tcv := by
    simp only [SpecForm.ports, at', List.getD_cons_zero, ← fldTc_unpack_eq, fldTc_unpack_xor b hm]
  rw [ports_xor_cons, htcv]
  simp only [SpecForm.ports, flagged_xor_cons b rest hm]
  rfl

end

end

/-- Settles O16: a mask without bit 4 keeps the frame legal and its payload, and toggles its own field; with bit 4
toggled, a frame is legal if it has 14 bytes, and one that is shorter and was legal is now flagged. -/
theorem flagBitsAreIsolated : Obligations.FlagBitsAreIsolated := by
  intro s b rest hw hlegal
  refine ⟨_, exec_dec_of_ok (decFrame_of_legal hlegal), fun m f hmem => ?_, ?_⟩
  · obtain ⟨hm, htoggle⟩ := toggle_of_mem_flagToggles hmem
    rw [hw] at hlegal htoggle ⊢
    exact ⟨_, exec_dec_of_ok (decFrame_of_legal ((legalFrame_xor_cons b rest hm).trans hlegal)), rfl,
      (ports_xor_cons_of_tc b rest hm).trans htoggle, drop_headerOf_xor_cons b rest hm⟩
  rw [hw] at hlegal ⊢
  obtain ⟨hten, htimed, hsize⟩ := (legalFrame_cons_iff b rest).1 hlegal
  obtain hshort | hlong := Nat.lt_or_ge (b :: rest).length 14
  · have htc : fldTc.unpack (b ^^^ 0x10#8) = 1#1 := by
      rw [unpack_xor rfl, (BitVec.eq_zero_or_eq_one _).resolve_right fun h => Nat.not_le.2 hshort (htimed h)]
      decide
    exact ⟨_, exec_dec_of_error (decFrame_of_timed_short hten (legalFrame_checks hlegal).1 htc hshort),
      fun h => absurd h (Nat.not_le.2 hshort), fun _ => rfl⟩
  · have hlegal' : legalFrame ((b ^^^ 0x10#8) :: rest) = true :=
      (legalFrame_cons_iff _ _).2 ⟨hten, fun _ => hlong, hsize⟩
    refine ⟨_, exec_dec_of_ok (decFrame_of_legal hlegal'), fun _ => ⟨rfl, ?_⟩, fun h => absurd h (Nat.not_lt.2 hlong)⟩
    exact (ports_xor_cons b 0x10#8 rest).trans (by rw [toggle_timecodeBit]; rfl)

end Sys2Proof.Machine
end

section
/-! SUPPORT. Proof that `DEC` is the sequence of its micro-operations (R121): each micro-operation finds the bytes it reads,
and what it leaves is what the next one takes. -/

namespace Sys2Proof.Machine

open Sys2Proof.SpecForm

/-! ## The micro-operations that `DEC` runs -/

section
variable {s : State}

theorem exec_get8_of_lt {i : Nat} (h : i < s.wire.length) :
    exec (.get8 i) s = .next { s with byteOut := get8 s.wire i } := inWire_of_le _ h

theorem exec_get16be_of_le {i : Nat} (h : i + 2 ≤ s.wire.length) :
    exec (.get16be i) s = .next { s with halfOut := get16be s.wire i } := inWire_of_le _ h

theorem exec_get32be_of_le {i : Nat} (h : i + 4 ≤ s.wire.length) :
    exec (.get32be i) s = .next { s with wordOut := get32be s.wire i } := inWire_of_le _ h

theorem exec_slice_of_le {i : Nat} (h : i ≤ s.wire.length) :
    exec (.slice i) s = .next { s with pay := slice s.wire i } := inWire_of_le _ h

end

theorem exec_unpackFlags (b : Byte) (s : State) :
    exec (.unpackFlags b) s = .next { s with f := s.f.setFlags (unpackFlags b) } := rfl

theorem exec_unpackSeq (b : Byte) (s : State) :
    exec (.unpackSeq b) s = .next { s with f := { s.f with seq := unpackSeq b } } := rfl

theorem exec_unpackDtype (b : Byte) (s : State) : exec (.unpackDtype b) s =
    .next { s with f := { s.f with std := (unpackDtype b).1, type := (unpackDtype b).2.1 },
                   sizeCode := (unpackDtype b).2.2 } := rfl

theorem exec_size2bpp (z : BitVec 3) (s : State) : exec (.size2bpp z) s = .next { s with bppOut := size2bpp z } := rfl

/-! ## Bytes 0 to 9 -/

/-- What the loads, the unpackings and the table reading of bytes 0 to 2 leave (R121 steps 2 to 6), before the read value
or the error: the ports of the three bytes but `BPP`, and the last result of each kind. -/
def afterPackedBytes (s : State) : State :=
  { s with
    f := { s.f.setFlags (unpackFlags (get8 s.wire 0)) with
      seq := unpackSeq (get8 s.wire 1), std := (unpackDtype (get8 s.wire 2)).1, type := (unpackDtype (get8 s.wire 2)).2.1 },
    byteOut := get8 s.wire 2, sizeCode := (unpackDtype (get8 s.wire 2)).2.2,
    bppOut := size2bpp (unpackDtype (get8 s.wire 2)).2.2 }

/-- What steps 2 to 9 of R121 leave: the ports of bytes 0 to 9, those of the timecode as before, and the last result of
each kind. -/
def afterHeader (s : State) (bpp : BitVec 8) : State :=
  { s with
    f := { headerPorts s.wire bpp with tcv := s.f.tcv, sec := s.f.sec, frac := s.f.frac },
    byteOut := get8 s.wire 3, halfOut := get16be s.wire 8, wordOut := get32be s.wire 4,
    sizeCode := (unpackDtype (get8 s.wire 2)).2.2, bppOut := some bpp }

section
variable {s : State}

/-- Steps 2 to 6 of R121 never fault on three bytes or more; the table reading decides how they end. -/
theorem decPackedBytes_eq (h : 3 ≤ s.wire.length) (k : State → Host.Outcome State Fault Refusal) : decPackedBytes s k =
    (size2bpp (unpackDtype (get8 s.wire 2)).2.2).elim
      (.next (decAnswer (afterPackedBytes s) (some .unknownSizeCode) Ports.zero []))
      (fun bpp => k ((afterPackedBytes s).setF { (afterPackedBytes s).f with bpp := bpp })) := by
  have h0 : 0 < s.wire.length := by omega
  have h1 : 1 < s.wire.length := by omega
  have h2 : 2 < s.wire.length := by omega
  simp only [decPackedBytes, exec_get8_of_lt, exec_unpackFlags, exec_unpackSeq, exec_unpackDtype, exec_size2bpp,
    exec_errUnknownSizeCode, andThen_next, h0, h1, h2]
  cases hz : size2bpp (unpackDtype (get8 s.wire 2)).2.2 <;> simp only [afterPackedBytes, hz] <;> rfl

/-- Steps 7 to 9 of R121 never fault on ten bytes or more. -/
theorem decWholeFields_eq (h : 10 ≤ s.wire.length) (k : State → Host.Outcome State Fault Refusal) : decWholeFields s k =
    k { s with f := { s.f with id := get8 s.wire 3, offset := get32be s.wire 4, length := get16be s.wire 8 },
               byteOut := get8 s.wire 3, halfOut := get16be s.wire 8, wordOut := get32be s.wire 4 } := by
  have h3 : 3 < s.wire.length := by omega
  have h8 : 8 ≤ s.wire.length := by omega
  simp only [decWholeFields, exec_get8_of_lt, exec_get32be_of_le, exec_get16be_of_le, andThen_next, State.setF, h3, h8,
    h]

/-- With size code 7 the sequence ends at step 5 of R121. -/
theorem decSequence_of_none (h : 10 ≤ s.wire.length) (hz : size2bpp (unpackDtype (get8 s.wire 2)).2.2 = none) :
    decSequence s = .next (decAnswer (afterPackedBytes s) (some .unknownSizeCode) Ports.zero []) := by
  rw [decSequence, if_neg (Nat.not_lt.2 h), decPackedBytes_eq (by omega), hz]
  rfl

/-- With a size code in the table, steps 2 to 9 leave the ports of bytes 0 to 9 to the steps that follow. -/
theorem decSequence_of_some {bpp : BitVec 8} (h : 10 ≤ s.wire.length)
    (hz : size2bpp (unpackDtype (get8 s.wire 2)).2.2 = some bpp) : decSequence s = decTail (afterHeader s bpp) := by
  rw [decSequence, if_neg (Nat.not_lt.2 h), decPackedBytes_eq (by omega), hz, Option.elim_some]
  refine (decWholeFields_eq (by exact h) decTail).trans (congrArg decTail ?_)
  simp only [afterPackedBytes, hz]
  rfl

/-! ## The timecode, the payload and the response -/

theorem decTail_of_timed_short (htc : s.f.tc = 1#1) (hlen : s.wire.length < 14) :
    decTail s = .next (decAnswer s (some .tooShort) Ports.zero []) := by
  rw [decTail, if_pos htc, if_pos hlen, exec_errTooShort]
  rfl

theorem decTail_of_timed (htc : s.f.tc = 1#1) (hlen : 14 ≤ s.wire.length) : decTail s =
    .next (decAnswer { s with halfOut := get16be s.wire 12 } none
      { s.f with tcv := 1, sec := get16be s.wire 10, frac := get16be s.wire 12 } (slice s.wire 14)) := by
  have h12 : 12 ≤ s.wire.length := by omega
  rw [decTail, if_pos htc, if_neg (Nat.not_lt.2 hlen)]
  simp only [exec_get16be_of_le, exec_slice_of_le, exec_errOk, andThen_next, State.setF, h12, hlen]
  rfl

theorem decTail_of_untimed (htc : s.f.tc ≠ 1#1) (hlen : 10 ≤ s.wire.length) : decTail s =
    .next (decAnswer s none { s.f with tcv := 0, sec := 0, frac := 0 } (slice s.wire 10)) := by
  rw [decTail, if_neg htc]
  simp only [exec_slice_of_le, exec_errOk, andThen_next, State.setF, hlen]
  rfl

end

/-! ## The whole sequence -/

/-- Settles O32: the sequence and the algorithm make the same checks, and in each of their five ends the same answer. -/
theorem decIsItsMicroOperations : Obligations.DecIsItsMicroOperations := by
  intro s
  obtain hlt | hten := Nat.lt_or_ge s.wire.length 10
  · refine ⟨decAnswer s (some .tooShort) Ports.zero [], _, ?_, exec_dec_of_error (decFrame_of_lt hlt), rfl⟩
    rw [decSequence, if_pos hlt, exec_errTooShort]
    rfl
  cases hz : size2bpp (unpackDtype (get8 s.wire 2)).2.2 with
  | none =>
    exact ⟨_, _, decSequence_of_none hten hz, exec_dec_of_error (decFrame_of_seven hten ((size2bpp_none_iff _).1 hz)), rfl⟩
  | some bpp =>
    rw [decSequence_of_some hten hz]
    by_cases htc : (unpackFlags (get8 s.wire 0)).2.1 = 1#1
    · obtain hshort | hlong := Nat.lt_or_ge s.wire.length 14
      · exact ⟨_, _, decTail_of_timed_short htc hshort, exec_dec_of_error (decFrame_of_timed_short hten hz htc hshort), rfl⟩
      · exact ⟨_, _, decTail_of_timed htc hlong, exec_dec_of_ok (decFrame_of_timed hz htc hlong), rfl⟩
    · exact ⟨_, _, decTail_of_untimed htc hten, exec_dec_of_ok (decFrame_of_untimed hz htc hten), rfl⟩

end Sys2Proof.Machine
end

section
/-! SUPPORT. Proofs of the encode statements: how `ENC` ends and what frame it emits (R143 to R148, R152), and that frames
and packets determine each other (R150, R151, R153). -/

namespace Sys2Proof.Machine

open Sys2Proof.SpecForm

/-! ## The answer of `ENC`, by how the algorithm ends -/

theorem exec_enc_of_ok {s : State} {w : Bytes} (h : encPacket s.f s.pay = .ok w) :
    exec .enc s = .next (encAnswer s none w) := by
  rw [exec_enc, encResult_of_ok h]
  rfl

theorem exec_enc_of_error {s : State} {e : DdpError} (h : encPacket s.f s.pay = .error e) :
    exec .enc s = .next (encAnswer s (some e) []) := by
  rw [exec_enc, encResult_of_error h]
  rfl

/-- `ERR` is `OK` only if the packet encodes, and then `WIRE` is its frame (R141 step 8). -/
theorem encPacket_ok_of_err_none {f : Ports} {p : Bytes} (h : (encResult f p).1 = none) :
    encPacket f p = .ok (encResult f p).2 := by
  cases henc : encPacket f p with
  | ok w => rw [encResult_of_ok henc]
  | error e => rw [encResult_of_error henc] at h; cases h

theorem bpp2size_none_iff : ∀ v : BitVec 8, bpp2size v = none ↔ v ∉ bppSet := by decide

theorem encPacket_of_missing {f : Ports} {z : BitVec 3} (p : Bytes) (hz : bpp2size f.bpp = some z) (htc : f.tc = 1#1)
    (htcv : f.tcv = 0#1) : encPacket f p = .error .missingTimecode := by
  rw [encPacket_of_some p hz, if_pos htc, if_pos htcv]

/-- A packet encodes when its bits per pixel are legal and a flagged timecode is present (R143, R145). -/
theorem exists_encPacket_ok {f : Ports} (p : Bytes) (hbpp : f.bpp ∈ bppSet) (htime : f.tc = 1#1 → f.tcv = 1#1) :
    ∃ w, encPacket f p = .ok w := by
  cases hz : bpp2size f.bpp with
  | none => exact absurd hbpp ((bpp2size_none_iff _).1 hz)
  | some z =>
    by_cases htc : f.tc = 1#1
    · exact ⟨_, encPacket_of_timed p hz htc (by rw [htime htc]; decide)⟩
    · exact ⟨_, encPacket_of_untimed p hz htc⟩

/-! ## Decoding an encoded packet -/

/-- What a frame carries of a packet: the timecode if it is flagged, and zeros where there is none (R90, R144). -/
def Ports.carried (f : Ports) : Ports :=
  { f with tcv := f.tc, sec := if f.tc = 1#1 then f.sec else 0, frac := if f.tc = 1#1 then f.frac else 0 }

theorem carried_of_timed {f : Ports} (htc : f.tc = 1#1) : f.carried = { f with tcv := 1 } := by
  rw [Ports.carried, if_pos htc, if_pos htc, htc]
  rfl

theorem carried_of_untimed {f : Ports} (htc : f.tc ≠ 1#1) : f.carried = { f with tcv := 0, sec := 0, frac := 0 } := by
  rw [Ports.carried, if_neg htc, if_neg htc, (BitVec.eq_zero_or_eq_one _).resolve_right htc]
  rfl

theorem withoutTime_carried {f : Ports} (h : f.tcv = f.tc) : withoutTime f.carried = withoutTime f := by
  rw [withoutTime, withoutTime, h]
  rfl

theorem timecode_carried {f : Ports} (h : f.tcv = f.tc) : f.carried.timecode = f.timecode := by
  by_cases htc : f.tc = 1#1 <;> simp [Ports.timecode, Ports.carried, h, htc]

/-- The header that `ENC` makes of a packet holds its ports, whatever bytes follow (R170, R190). -/
theorem headerPorts_headerBytes (f : Ports) (z : BitVec 3) (q : Bytes) :
    headerPorts (headerBytes f z ++ q) f.bpp = { f with tcv := 0, sec := 0, frac := 0 } := by
  have hflags : unpackFlags (get8 (headerBytes f z ++ q) 0) = _ := unpackFlags_packFlags f.ver f.tc f.st f.rp f.qy f.pu
  have hseq : unpackSeq (get8 (headerBytes f z ++ q) 1) = f.seq := unpackSeq_packSeq f.seq
  have hdtype : unpackDtype (get8 (headerBytes f z ++ q) 2) = _ := unpackDtype_packDtype f.std f.type z
  have hoffset : get32be (headerBytes f z ++ q) 4 = f.offset := be32_bytes32 f.offset
  have hlength : get16be (headerBytes f z ++ q) 8 = f.length := be16_bytes16 f.length
  simp only [headerPorts, hflags, hseq, hdtype, hoffset, hlength]
  rfl

/-- The timecode after the header reads back (R190). -/
theorem timedPorts_timedBytes (f : Ports) (z : BitVec 3) (p : Bytes) :
    timedPorts (timedBytes f z ++ p) f.bpp = { f with tcv := 1 } := by
  have hsec : get16be (timedBytes f z ++ p) 10 = f.sec := be16_bytes16 f.sec
  have hfrac : get16be (timedBytes f z ++ p) 12 = f.frac := be16_bytes16 f.frac
  have hheader : headerPorts (timedBytes f z ++ p) f.bpp = _ := headerPorts_headerBytes f z _
  rw [timedPorts, hsec, hfrac, hheader]

/-- A frame that `ENC` emits decodes to what it carries of its packet (R150). -/
theorem decFrame_of_encPacket_ok {f : Ports} {p w : Bytes} (h : encPacket f p = .ok w) :
    decFrame w = .ok (f.carried, p) := by
  obtain ⟨z, hz, hform⟩ := encPacket_ok h
  have hflag : ∀ q, (unpackFlags (get8 (headerBytes f z ++ q) 0)).2.1 = f.tc := fun _ =>
    congrArg (fun x => x.2.1) (unpackFlags_packFlags f.ver f.tc f.st f.rp f.qy f.pu)
  have hsize : ∀ q, size2bpp (unpackDtype (get8 (headerBytes f z ++ q) 2)).2.2 = some f.bpp := fun _ =>
    (congrArg (fun x => size2bpp x.2.2) (unpackDtype_packDtype f.std f.type z)).trans ((size2bpp_some_iff _ _).2 hz)
  obtain ⟨htc, -, rfl⟩ | ⟨htc, rfl⟩ := hform
  · rw [carried_of_timed htc, ← timedPorts_timedBytes f z p]
    exact decFrame_of_timed (hsize (bytes16 f.sec ++ bytes16 f.frac ++ p)) ((hflag _).trans htc) (by simp)
  · rw [carried_of_untimed htc, ← headerPorts_headerBytes f z p]
    exact decFrame_of_untimed (hsize p) (fun h1 => htc ((hflag p).symm.trans h1)) (by simp)

/-- Settles O28: a valid packet encodes, and its frame carries all of it that the round trip compares. -/
theorem packetRoundTrip : Obligations.PacketRoundTrip := by
  intro s hvalid
  obtain ⟨hbpp, htcv⟩ := (Ports.valid_iff s.f).1 hvalid
  obtain ⟨w, henc⟩ := exists_encPacket_ok s.pay hbpp htcv.trans
  refine ⟨_, exec_enc_of_ok henc, rfl, fun s' hwire => ?_⟩
  have hdec : decFrame s'.wire = .ok (s.f.carried, s.pay) := hwire ▸ decFrame_of_encPacket_ok henc
  exact ⟨_, exec_dec_of_ok hdec, rfl, rfl, withoutTime_carried htcv, timecode_carried htcv⟩

/-- Settles O29: a legal frame decodes, and its packet encodes to the cleared frame. -/
theorem frameRoundTripIsCanonical : Obligations.FrameRoundTripIsCanonical := by
  intro s hlegal
  have hdec := decFrame_of_legal hlegal
  refine ⟨_, exec_dec_of_ok hdec, rfl, fun s' hf hpay => ?_⟩
  have henc : encPacket s'.f s'.pay = .ok (clearReserved s.wire) := by
    rw [hf, hpay]
    exact encPacket_of_decFrame_ok hdec
  exact ⟨_, exec_enc_of_ok henc, rfl, rfl, fun h => h ▸ canonicalFrame_clearReserved hlegal, clearReserved_of_canonical⟩

/-- Settles O27: both frames decode, to what they carry of their packets, and on valid packets that is all but an absent
timecode. -/
theorem encIsInjectiveOnValidPackets : Obligations.EncIsInjectiveOnValidPackets := by
  intro s s' t t' hvalid hvalid' ht ht' hwire
  obtain ⟨hbpp, htcv⟩ := (Ports.valid_iff s.f).1 hvalid
  obtain ⟨hbpp', htcv'⟩ := (Ports.valid_iff s'.f).1 hvalid'
  obtain ⟨w, henc⟩ := exists_encPacket_ok s.pay hbpp htcv.trans
  obtain ⟨w', henc'⟩ := exists_encPacket_ok s'.pay hbpp' htcv'.trans
  cases (exec_enc_of_ok henc).symm.trans ht
  cases (exec_enc_of_ok henc').symm.trans ht'
  obtain rfl : w = w' := hwire
  have hpacket := (decFrame_of_encPacket_ok henc).symm.trans (decFrame_of_encPacket_ok henc')
  obtain ⟨hcarried, hpay⟩ := Prod.mk.inj (Except.ok.inj hpacket)
  refine ⟨hpay, ?_, ?_⟩
  · rw [← withoutTime_carried htcv, hcarried, withoutTime_carried htcv']
  · rw [← timecode_carried htcv, hcarried, timecode_carried htcv']

/-! ## The frame in numbers -/

/-- A row of the size-code table read by value (R92, R167). -/
theorem bpp2size_of_mem_sizePairs {z : Nat} {v : BitVec 8} (h : (z, v.toNat) ∈ sizePairs) :
    ∃ c : BitVec 3, bpp2size v = some c ∧ c.toNat = z := by
  have hrow : ∀ r ∈ sizePairs, ∀ x : BitVec 8, x.toNat = r.2 →
      bpp2size x = some (BitVec.ofNat 3 r.1) ∧ (BitVec.ofNat 3 r.1).toNat = r.1 := by decide
  exact ⟨_, hrow _ h v rfl⟩

theorem bytes32_eq_four (v : BitVec 32) : bytes32 v = four v.toNat := bytes32_eq v

/-- Bytes 0 to 9 in the numbers of R91, in the order of R146. -/
theorem headerBytes_eq_header (f : Ports) (z : BitVec 3) : headerBytes f z = header f z.toNat := by
  rw [headerBytes_eq, packFlags_eq, packSeq_eq, packDtype_eq, bytes32_eq_four, bytes16_eq_two]
  rfl

theorem timedBytes_eq_header (f : Ports) (z : BitVec 3) :
    timedBytes f z = header f z.toNat ++ (two f.sec.toNat ++ two f.frac.toNat) := by
  rw [timedBytes, headerBytes_eq_header, bytes16_eq_two, bytes16_eq_two]

/-- Settles O20: with the timecode present iff flagged, either case of the flag is the frame of R91. -/
theorem encEmitsFrameInFixedOrder : Obligations.EncEmitsFrameInFixedOrder := by
  intro s z hz htcv
  obtain ⟨c, hc, rfl⟩ := bpp2size_of_mem_sizePairs hz
  refine exec_enc_of_ok ?_
  by_cases htc : s.f.tc = 1#1
  · rw [encPacket_of_timed s.pay hc htc (by rw [htcv, htc]; decide), timedBytes_eq_header, timecodeBytes, if_pos htc]
  · rw [encPacket_of_untimed s.pay hc htc, headerBytes_eq_header, timecodeBytes, if_neg htc, List.append_nil]

/-- Settles O21: with the flag clear `ENC` reads neither `TCV` nor the timecode. -/
theorem encDropsUnflaggedTimecode : Obligations.EncDropsUnflaggedTimecode := by
  intro s z hz htc
  obtain ⟨c, hc, rfl⟩ := bpp2size_of_mem_sizePairs hz
  refine exec_enc_of_ok ?_
  rw [encPacket_of_untimed s.pay hc (by rw [htc]; decide), headerBytes_eq_header]

/-- Settles O22: the check for the timecode, and the bytes after the header. -/
theorem encRequiresFlaggedTimecode : Obligations.EncRequiresFlaggedTimecode := by
  intro s hbpp htc
  cases hz : bpp2size s.f.bpp with
  | none => exact absurd hbpp ((bpp2size_none_iff _).1 hz)
  | some z =>
    refine ⟨fun htcv => ⟨_, exec_enc_of_error (encPacket_of_missing s.pay hz htc htcv), rfl⟩, fun htcv => ?_⟩
    refine ⟨_, exec_enc_of_ok (encPacket_of_timed s.pay hz htc (by rw [htcv]; decide)), rfl, ?_⟩
    rw [← bytes16_eq_two, ← bytes16_eq_two]
    rfl

/-! ## What every emitted frame keeps to -/

/-- An emitted frame begins with the ten header bytes (R146). -/
theorem encPacket_ok_header {f : Ports} {p w : Bytes} (h : encPacket f p = .ok w) :
    ∃ z q, bpp2size f.bpp = some z ∧ w = headerBytes f z ++ q := by
  obtain ⟨z, hz, ⟨-, -, rfl⟩ | ⟨-, rfl⟩⟩ := encPacket_ok h
  · exact ⟨z, _, hz, List.append_assoc _ _ _⟩
  · exact ⟨z, _, hz, rfl⟩

/-- An emitted frame ends with the whole payload (R147). -/
theorem encPacket_ok_drop {f : Ports} {p w : Bytes} (h : encPacket f p = .ok w) :
    w.drop (10 + 4 * f.tc.toNat) = p := by
  obtain ⟨z, -, ⟨htc, -, rfl⟩ | ⟨htc, rfl⟩⟩ := encPacket_ok h
  · rw [htc]
    rfl
  · rw [(BitVec.eq_zero_or_eq_one _).resolve_right htc]
    rfl

/-- Settles O26: `ERR` is `OK` only for a packet that encodes. -/
theorem encOutputIsCanonical : Obligations.EncOutputIsCanonical := fun s => ⟨_, exec_enc s, fun herr =>
  have henc := encPacket_ok_of_err_none herr
  ⟨encPacket_ok_length henc, encPacket_ok_canonical henc, encPacket_ok_drop henc⟩⟩

theorem packDtype_toNat : ∀ (std : BitVec 1) (type z : BitVec 3),
    (packDtype std type z).toNat = 128 * (1 - std.toNat) + 8 * type.toNat + z.toNat := by decide

/-- Settles O23: byte 2 of an emitted frame is the packed byte of its size code. -/
theorem encRebuildsDataTypeByte : Obligations.EncRebuildsDataTypeByte := by
  intro s
  constructor
  · intro hbpp
    exact ⟨_, exec_enc_of_error (encPacket_of_none s.pay ((bpp2size_none_iff _).2 hbpp)), rfl⟩
  · intro z hz
    refine ⟨_, exec_enc s, fun herr => ?_⟩
    obtain ⟨c, hc, rfl⟩ := bpp2size_of_mem_sizePairs hz
    obtain ⟨c', q, hc', hwire⟩ := encPacket_ok_header (encPacket_ok_of_err_none herr)
    obtain rfl : c = c' := Option.some.inj (hc.symm.trans hc')
    rw [hwire, ← packDtype_toNat]
    rfl

/-! ## The declared length -/

/-- A frame with other bytes 8 and 9, those of `l` (R87). -/
def withLengthField (l : BitVec 16) (w : Bytes) : Bytes := (w.set 8 (byte (l.toNat / 256))).set 9 (byte l.toNat)

/-- Another `LENGTH` is another pair of bytes 8 and 9 of the header, whatever follows (R148). -/
theorem headerBytes_setLength (f : Ports) (z : BitVec 3) (l : BitVec 16) (q : Bytes) :
    headerBytes { f with length := l } z ++ q = withLengthField l (headerBytes f z ++ q) := by
  rw [headerBytes_eq, bytes16_eq]
  rfl

/-- Another `LENGTH` makes no other difference to the algorithm, which ends as before (R148). -/
theorem encPacket_setLength (f : Ports) (p : Bytes) (l : BitVec 16) :
    encPacket { f with length := l } p = (encPacket f p).map (withLengthField l) := by
  cases hz : bpp2size f.bpp with
  | none =>
    have hz' : bpp2size { f with length := l }.bpp = none := hz
    rw [encPacket_of_none p hz, encPacket_of_none p hz']
    rfl
  | some z =>
    have hz' : bpp2size { f with length := l }.bpp = some z := hz
    by_cases htc : f.tc = 1#1
    · by_cases htcv : f.tcv = 0#1
      · rw [encPacket_of_missing p hz htc htcv, encPacket_of_missing p hz' htc htcv]
        rfl
      · rw [encPacket_of_timed p hz htc htcv, encPacket_of_timed p hz' htc htcv]
        exact congrArg Except.ok (headerBytes_setLength f z l (bytes16 f.sec ++ bytes16 f.frac ++ p))
    · rw [encPacket_of_untimed p hz htc, encPacket_of_untimed p hz' htc]
      exact congrArg Except.ok (headerBytes_setLength f z l p)

theorem encResult_setLength (f : Ports) (p : Bytes) (l : BitVec 16) : encResult { f with length := l } p =
    ((encResult f p).1, withLengthField l (encResult f p).2) := by
  have hmap := encPacket_setLength f p l
  cases henc : encPacket f p with
  | ok w =>
    rw [henc] at hmap
    rw [encResult_of_ok henc, encResult_of_ok hmap]
  | error e =>
    rw [henc] at hmap
    rw [encResult_of_error henc, encResult_of_error hmap]
    rfl

/-- Bytes 8 and 9 of the header are `LENGTH` (R87). -/
theorem headerBytes_lengthField (f : Ports) (z : BitVec 3) (q : Bytes) :
    256 * at' (headerBytes f z ++ q) 8 + at' (headerBytes f z ++ q) 9 = f.length.toNat := by
  have h := congrArg BitVec.toNat (be16_bytes16 f.length)
  rw [be16, append_toNat, Nat.mul_comm] at h
  exact h

/-- Settles O25: on success the header and the payload are those of the packet, and another `LENGTH` changes two bytes. -/
theorem encNeverUsesDeclaredLength : Obligations.EncNeverUsesDeclaredLength := by
  intro s l
  refine ⟨_, _, exec_enc s, exec_enc _, fun herr => ?_, ?_⟩
  · have henc := encPacket_ok_of_err_none herr
    obtain ⟨z, q, -, hwire⟩ := encPacket_ok_header henc
    refine ⟨?_, encPacket_ok_drop henc⟩
    rw [hwire]
    exact headerBytes_lengthField s.f z q
  · rw [encResult_setLength]
    exact ⟨rfl, rfl⟩

end Sys2Proof.Machine
end

section
/-! SUPPORT. Proof that `ENC` is the sequence of its micro-operations (R141): each store finds `W` as long as its index, and
what it leaves is what the next one takes. -/

namespace Sys2Proof.Machine

open Sys2Proof.SpecForm

/-! ## The micro-operations that `ENC` runs -/

theorem exec_packFlags (ver : BitVec 2) (tc st rp qy pu : BitVec 1) (s : State) :
    exec (.packFlags ver tc st rp qy pu) s = .next { s with byteOut := packFlags ver tc st rp qy pu } := rfl

theorem exec_packSeq (seq : BitVec 4) (s : State) : exec (.packSeq seq) s = .next { s with byteOut := packSeq seq } := rfl

theorem exec_packDtype (std : BitVec 1) (type z : BitVec 3) (s : State) :
    exec (.packDtype std type z) s = .next { s with byteOut := packDtype std type z } := rfl

theorem exec_bpp2size (v : BitVec 8) (s : State) : exec (.bpp2size v) s = .next { s with sizeOut := bpp2size v } := rfl

theorem exec_append (s : State) : exec .append s = .next { s with wire := s.w ++ s.pay } := rfl

section
variable {s : State} {i : Nat}

theorem exec_put8_of_eq (v : BitVec 8) (h : s.w.length = i) :
    exec (.put8 i v) s = .next { s with w := s.w ++ [v] } := atEndOfW_of_eq _ h

theorem exec_put16be_of_eq (v : BitVec 16) (h : s.w.length = i) :
    exec (.put16be i v) s = .next { s with w := s.w ++ bytes16 v } := atEndOfW_of_eq _ h

theorem exec_put32be_of_eq (v : BitVec 32) (h : s.w.length = i) :
    exec (.put32be i v) s = .next { s with w := s.w ++ bytes32 v } := atEndOfW_of_eq _ h

end

/-! ## Bytes 0 to 9 -/

/-- What steps 1 to 5 of R141 leave with the size code `z`: the header in `W`, and the last result of each kind. -/
def afterHeaderBytes (s : State) (z : BitVec 3) : State :=
  { s with byteOut := packSeq s.f.seq, sizeOut := some z, w := headerBytes s.f z }

section
variable (s : State)

/-- Steps 1 to 4 of R141 never fault; the table reading decides how they end. -/
theorem encPackedBytes_eq (k : Byte → Byte → State → Host.Outcome State Fault Refusal) : encPackedBytes s k =
    (bpp2size s.f.bpp).elim
      (.next (encAnswer { s with byteOut := packFlags s.f.ver s.f.tc s.f.st s.f.rp s.f.qy s.f.pu, sizeOut := none }
        (some .unsupportedBitsPerPixel) []))
      (fun z => k (packFlags s.f.ver s.f.tc s.f.st s.f.rp s.f.qy s.f.pu) (packDtype s.f.std s.f.type z)
        { s with byteOut := packDtype s.f.std s.f.type z, sizeOut := some z }) := by
  simp only [encPackedBytes, exec_packFlags, exec_bpp2size, exec_packDtype, exec_errUnsupportedBitsPerPixel, andThen_next]
  cases bpp2size s.f.bpp <;> rfl

/-- Step 5 of R141 never faults: the six stores are at the indices 0, 1, 2, 3, 4 and 8, each the length of `W` then. -/
theorem encHeader_eq (b0 b2 : Byte) (k : State → Host.Outcome State Fault Refusal) : encHeader b0 b2 s k =
    k { s with byteOut := packSeq s.f.seq,
               w := b0 :: packSeq s.f.seq :: b2 :: s.f.id :: (bytes32 s.f.offset ++ bytes16 s.f.length) } := by
  simp only [encHeader, State.setW, exec_put8_of_eq, exec_packSeq, exec_put32be_of_eq, exec_put16be_of_eq, andThen_next,
    List.length_append, List.length_nil, List.length_singleton, bytes32_length]
  rfl

end

section
variable {s : State}

/-- With a legal value of `BPP` the header is in `W` when the timecode's turn comes. -/
theorem encSequence_of_some {z : BitVec 3} (hz : bpp2size s.f.bpp = some z) :
    encSequence s = encTail (afterHeaderBytes s z) := by
  rw [encSequence, encPackedBytes_eq, hz, Option.elim_some, encHeader_eq]
  rfl

theorem encSequence_of_none (hz : bpp2size s.f.bpp = none) : encSequence s =
    .next (encAnswer { s with byteOut := packFlags s.f.ver s.f.tc s.f.st s.f.rp s.f.qy s.f.pu, sizeOut := none }
      (some .unsupportedBitsPerPixel) []) := by
  rw [encSequence, encPackedBytes_eq, hz]
  rfl

/-! ## The timecode, the payload and the response -/

theorem encTail_of_missing (htc : s.f.tc = 1#1) (htcv : s.f.tcv = 0#1) :
    encTail s = .next (encAnswer s (some .missingTimecode) []) := by
  rw [encTail, if_pos htc, if_pos htcv, exec_errMissingTimecode]
  rfl

theorem encTail_of_timed (htc : s.f.tc = 1#1) (htcv : s.f.tcv ≠ 0#1) (hlen : s.w.length = 10) : encTail s =
    .next (encAnswer { s with w := s.w ++ bytes16 s.f.sec ++ bytes16 s.f.frac } none
      (s.w ++ bytes16 s.f.sec ++ bytes16 s.f.frac ++ s.pay)) := by
  have hlen12 : (s.w ++ bytes16 s.f.sec).length = 12 := by rw [List.length_append, hlen]; rfl
  rw [encTail, if_pos htc, if_neg htcv]
  simp only [exec_put16be_of_eq, exec_append, exec_errOk, andThen_next, hlen, hlen12]
  rfl

theorem encTail_of_untimed (htc : s.f.tc ≠ 1#1) : encTail s = .next (encAnswer s none (s.w ++ s.pay)) := by
  rw [encTail, if_neg htc]
  simp only [exec_append, exec_errOk, andThen_next]
  rfl

end

/-! ## The whole sequence -/

/-- Settles O33: the sequence and the algorithm make the same checks, and in each of their four ends the same answer. -/
theorem encIsItsMicroOperations : Obligations.EncIsItsMicroOperations := by
  intro s
  cases hz : bpp2size s.f.bpp with
  | none => exact ⟨_, _, encSequence_of_none hz, exec_enc_of_error (encPacket_of_none s.pay hz), rfl⟩
  | some z =>
    rw [encSequence_of_some hz]
    by_cases htc : s.f.tc = 1#1
    · by_cases htcv : s.f.tcv = 0#1
      · exact ⟨_, _, encTail_of_missing htc htcv, exec_enc_of_error (encPacket_of_missing s.pay hz htc htcv), rfl⟩
      · exact ⟨_, _, encTail_of_timed htc htcv rfl, exec_enc_of_ok (encPacket_of_timed s.pay hz htc htcv), rfl⟩
    · exact ⟨_, _, encTail_of_untimed htc, exec_enc_of_ok (encPacket_of_untimed s.pay hz htc), rfl⟩

end Sys2Proof.Machine
end

section
/-! SUPPORT. Proofs of the statements about the marshaller (R161 to R170): what each micro-operation leaves in the numbers of
R90 and R91, the size-code table as a set of pairs, and the inverse laws run one operation after the other. -/

namespace Sys2Proof.Machine

open Sys2Proof.SpecForm

/-! ## Unpacking and packing in numbers -/

/-- Settles O35: the six ports that the operation writes are the numbers of `unpackFlags_eq`. -/
theorem unpackFlagsFillsSixPorts : Obligations.UnpackFlagsFillsSixPorts := by
  intro b s
  rw [exec_unpackFlags, unpackFlags_eq]
  rfl

/-- Settles O36: likewise with the numbers of `unpackSeq_eq` and `unpackDtype_eq`. -/
theorem unpackSeqAndDtypeFillTheirPorts : Obligations.UnpackSeqAndDtypeFillTheirPorts := by
  intro b s
  constructor
  · rw [exec_unpackSeq, unpackSeq_eq]
  · rw [exec_unpackDtype, unpackDtype_eq]

theorem packFlags_eq_flagsByte (ver : BitVec 2) (tc st rp qy pu : BitVec 1) :
    packFlags ver tc st rp qy pu = flagsByte ver tc st rp qy pu := packFlags_eq ver tc st rp qy pu

theorem packSeq_eq_byte (seq : BitVec 4) : packSeq seq = byte seq.toNat := packSeq_eq seq

theorem packDtype_eq_typeByte (std : BitVec 1) (type z : BitVec 3) :
    packDtype std type z = SpecForm.typeByte std type z.toNat := packDtype_eq std type z

/-- Settles O37: each packer leaves the byte of the form of R91 as its result. -/
theorem packersBuildTheirByte : Obligations.PackersBuildTheirByte := by
  intro ver tc st rp qy pu std seq type z s
  refine ⟨?_, ?_, ?_⟩
  · rw [exec_packFlags, packFlags_eq_flagsByte]
  · rw [exec_packSeq, packSeq_eq_byte]
  · rw [exec_packDtype, packDtype_eq_typeByte]

/-! ## The size-code table -/

theorem mem_sizePairs_of_size2bpp : ∀ z : BitVec 3, ∀ v ∈ size2bpp z, (z.toNat, v.toNat) ∈ sizePairs := by decide

/-- Read by value, the model's table is the table of R92. -/
theorem bpp2size_some_iff_mem_sizePairs (z : BitVec 3) (v : BitVec 8) :
    bpp2size v = some z ↔ (z.toNat, v.toNat) ∈ sizePairs := by
  constructor
  · exact fun h => mem_sizePairs_of_size2bpp z v ((size2bpp_some_iff z v).2 h)
  · intro h
    obtain ⟨c, hc, hcz⟩ := bpp2size_of_mem_sizePairs h
    rwa [← BitVec.eq_of_toNat_eq hcz]

/-- Settles O38: both readings hold a pair exactly when the table of R92 does, since they are inverse to each other. -/
theorem sizeCodeTableIsReadBothWays : Obligations.SizeCodeTableIsReadBothWays := by
  intro z v s
  have hpair := bpp2size_some_iff_mem_sizePairs z v
  exact ⟨_, _, exec_size2bpp z s, exec_bpp2size v s, (size2bpp_some_iff z v).trans hpair, hpair, size2bpp_none_iff z,
    bpp2size_none_iff v⟩

/-! ## The inverse laws, run (R170) -/

/-- Unpacking the flags that were packed from the ports gives the same ports. -/
theorem Ports.setFlags_unpackFlags_packFlags (f : Ports) :
    f.setFlags (unpackFlags (packFlags f.ver f.tc f.st f.rp f.qy f.pu)) = f := by
  rw [unpackFlags_packFlags]
  rfl

theorem Ports.seq_unpackSeq_packSeq (f : Ports) : { f with seq := unpackSeq (packSeq f.seq) } = f := by
  rw [unpackSeq_packSeq]

theorem Ports.stdType_unpackDtype_packDtype (f : Ports) (z : BitVec 3) :
    { f with std := (unpackDtype (packDtype f.std f.type z)).1, type := (unpackDtype (packDtype f.std f.type z)).2.1 } = f := by
  rw [unpackDtype_packDtype]

theorem exists_size2bpp_of_ne_seven {z : BitVec 3} (h : z ≠ 7) : ∃ v, size2bpp z = some v :=
  Option.ne_none_iff_exists'.1 (mt (size2bpp_none_iff z).1 h)

theorem exists_bpp2size_of_mem_bppSet {v : BitVec 8} (h : v ∈ bppSet) : ∃ z, bpp2size v = some z :=
  Option.ne_none_iff_exists'.1 fun hnone => (bpp2size_none_iff v).1 hnone h

/-- Settles O39: no micro-operation of the marshaller stops, and the second of each pair takes the result of the first, so
each run is its equation of R170. -/
theorem packersInvertUnpackers : Obligations.PackersInvertUnpackers := by
  refine ⟨marshallerInverseLaws_hold, fun b s => ⟨?_, ?_, ?_, ?_, ?_, ?_, fun z hz => ?_, fun v hv => ?_⟩⟩
  · exact ⟨_, _, exec_unpackFlags b s, exec_packFlags _ _ _ _ _ _ _, packFlags_unpackFlags b⟩
  · exact ⟨_, _, exec_unpackSeq b s, exec_packSeq _ _, packSeq_unpackSeq b⟩
  · exact ⟨_, _, exec_unpackDtype b s, exec_packDtype _ _ _ _, packDtype_unpackDtype b⟩
  · exact ⟨_, _, exec_packFlags _ _ _ _ _ _ s, exec_unpackFlags _ _, s.f.setFlags_unpackFlags_packFlags⟩
  · exact ⟨_, _, exec_packSeq _ s, exec_unpackSeq _ _, s.f.seq_unpackSeq_packSeq⟩
  · exact ⟨_, _, exec_packDtype _ _ _ s, exec_unpackDtype _ _, s.f.stdType_unpackDtype_packDtype s.sizeCode,
      congrArg (fun x => x.2.2) (unpackDtype_packDtype s.f.std s.f.type s.sizeCode)⟩
  · obtain ⟨v, hsize⟩ := exists_size2bpp_of_ne_seven hz
    exact ⟨v, _, _, exec_size2bpp z s, hsize, exec_bpp2size v _, (size2bpp_some_iff z v).1 hsize⟩
  · obtain ⟨z, hsize⟩ := exists_bpp2size_of_mem_bppSet hv
    exact ⟨z, _, _, exec_bpp2size v s, hsize, exec_size2bpp z _, (size2bpp_some_iff z v).2 hsize⟩

end Sys2Proof.Machine
end

section
/-! SUPPORT. Proofs of the statements about the serializer (R180 to R191): what each load, store and slice answers inside
its precondition and outside it, and the inverse laws run one operation after the other. -/

namespace Sys2Proof.Machine

open Sys2Proof.SpecForm

/-! ## Bytes of an appended buffer -/

theorem byteAt?_append_left {b : Bytes} {i : Nat} (r : Bytes) (h : i < b.length) : byteAt? (b ++ r) i = byteAt? b i :=
  List.getElem?_append_left h

theorem byteAt?_append_right (b r : Bytes) (i : Nat) : byteAt? (b ++ r) (b.length + i) = byteAt? r i := by
  rw [byteAt?, List.getElem?_append_right (Nat.le_add_right _ _), Nat.add_sub_cancel_left]
  rfl

theorem byteAt?_slice (b : Bytes) (h i : Nat) : byteAt? (slice b h) i = byteAt? b (h + i) := List.getElem?_drop

/-- Bytes below the length of `W` are read as before from what a store left, whatever follows (R190). -/
theorem byteAt?_stored {w : Bytes} {i : Nat} (x more : Bytes) (h : i < w.length) :
    byteAt? (w ++ x ++ more) i = byteAt? w i := by
  rw [List.append_assoc, byteAt?_append_left _ h]

/-! ## The loads in the numbers of R180 to R182 -/

theorem get8_eq (b : Bytes) (i : Nat) : get8 b i = byte (at' b i) := by
  rw [byte, at', BitVec.ofNat_toNat, BitVec.setWidth_eq]
  rfl

theorem get16be_eq (b : Bytes) (i : Nat) : get16be b i = BitVec.ofNat 16 (256 * at' b i + at' b (i + 1)) := be16_eq _ _

theorem get32be_eq (b : Bytes) (i : Nat) : get32be b i =
    BitVec.ofNat 32 (16777216 * at' b i + 65536 * at' b (i + 1) + 256 * at' b (i + 2) + at' b (i + 3)) :=
  be32_eq _ _ _ _

/-- Settles O40: inside the buffer a load answers with its value, which is the number of the rule. -/
theorem loadsReadBigEndianValues : Obligations.LoadsReadBigEndianValues := by
  intro i s
  refine ⟨fun h => ?_, fun h => ?_, fun h => ?_⟩
  · rw [exec_get8_of_lt h, get8_eq]
  · rw [exec_get16be_of_le h, get16be_eq]
  · rw [exec_get32be_of_le h, get32be_eq]

/-! ## The stores, the slice and the append -/

/-- Settles O41: at the end of `W` a store appends its bytes, which are those of the number. -/
theorem storesAppendBigEndianBytes : Obligations.StoresAppendBigEndianBytes := by
  intro i v h d s hw
  refine ⟨exec_put8_of_eq v hw, ?_, ?_⟩
  · rw [exec_put16be_of_eq h hw, bytes16_eq_two]
  · rw [exec_put32be_of_eq d hw, bytes32_eq_four]

/-- Settles O42: the slice and the concatenation, read byte by byte. -/
theorem sliceAndAppendMoveThePayload : Obligations.SliceAndAppendMoveThePayload := by
  intro h s
  constructor
  · exact fun hle => ⟨_, exec_slice_of_le hle, List.length_drop, byteAt?_slice s.wire h⟩
  · exact ⟨_, exec_append s, List.length_append, fun i hi => byteAt?_append_left s.pay hi,
      byteAt?_append_right s.w s.pay⟩

/-! ## Outside the precondition -/

theorem inWire_of_lt {s : State} {i n : Nat} (k : State) (h : s.wire.length < i + n) :
    inWire s i n k = .fault .outsideBuffer := if_neg (Nat.not_le.2 h)

theorem atEndOfW_of_ne {s : State} {i : Nat} (k : State) (h : s.w.length ≠ i) :
    atEndOfW s i k = .fault .putIndexNotLength := if_neg h

/-- Settles O43: the check of the loads and the slice, and the check of the stores, with the number of bytes of each
operation. -/
theorem serializerStopsOutsidePrecondition : Obligations.SerializerStopsOutsidePrecondition := by
  intro i v h d s
  refine ⟨fun hlen => ?_, fun hlen => ?_, fun hlen => ?_, fun hlen => ?_, fun hne => ?_⟩
  · exact inWire_of_lt _ (Nat.lt_succ_of_le hlen)
  · exact inWire_of_lt _ (Nat.lt_succ_of_le hlen)
  · exact inWire_of_lt _ (Nat.lt_succ_of_le hlen)
  · exact inWire_of_lt (n := 0) _ hlen
  · exact ⟨atEndOfW_of_ne _ hne, atEndOfW_of_ne _ hne, atEndOfW_of_ne _ hne⟩

/-! ## Store then load, run (R190) -/

/-- A load of as many bytes as were stored, at the index of the store, stays inside the buffer. -/
theorem end_le_length_stored (w x more : Bytes) : w.length + x.length ≤ (w ++ x ++ more).length := by
  rw [List.length_append, List.length_append]
  exact Nat.le_add_right _ _

/-- Settles O44: the store is at the end of `W`, the load finds the stored bytes, and its value is that of the law. -/
theorem storeThenLoadReturnsValue : Obligations.StoreThenLoadReturnsValue := by
  refine ⟨storeLoadLaws_hold, fun s v h d more => ⟨?_, ?_, ?_⟩⟩
  · exact ⟨_, _, exec_put8_of_eq v rfl, exec_get8_of_lt (end_le_length_stored s.w [v] more), get8_put8 s.w more v,
      fun _ => byteAt?_stored [v] more⟩
  · exact ⟨_, _, exec_put16be_of_eq h rfl, exec_get16be_of_le (end_le_length_stored s.w (bytes16 h) more),
      get16be_put16be s.w more h, fun _ => byteAt?_stored (bytes16 h) more⟩
  · exact ⟨_, _, exec_put32be_of_eq d rfl, exec_get32be_of_le (end_le_length_stored s.w (bytes32 d) more),
      get32be_put32be s.w more d, fun _ => byteAt?_stored (bytes32 d) more⟩

/-! ## Load then store, slice and append, run (R190, R191) -/

/-- Settles O45: a load leaves `W` as it was, so the store is at its end; `SLICE` reads inside the buffer that `APPEND`
built. Each run then is its law. -/
theorem loadThenStoreKeepsBytes : Obligations.LoadThenStoreKeepsBytes := by
  refine ⟨loadStoreLaws_hold, sliceAppendLaws_hold, fun s i => ⟨fun hw => ?_, fun hw hle => ?_, ?_⟩⟩
  · obtain ⟨hlaw8, hlaw16, hlaw32⟩ := loadStoreLaws_hold s.w s.wire i
    refine ⟨fun hle => ?_, fun hle => ?_, fun hle => ?_⟩
    · exact ⟨_, _, exec_get8_of_lt hle, exec_put8_of_eq _ hw, hlaw8 hle⟩
    · exact ⟨_, _, exec_get16be_of_le hle, exec_put16be_of_eq _ hw, hlaw16 hle⟩
    · exact ⟨_, _, exec_get32be_of_le hle, exec_put32be_of_eq _ hw, hlaw32 hle⟩
  · refine ⟨_, _, exec_slice_of_le hle, exec_append _, ?_⟩
    rw [hw]
    exact append_slice s.wire i
  · have hle : s.w.length ≤ (s.w ++ s.pay).length := List.length_append ▸ Nat.le_add_right _ _
    exact ⟨_, _, exec_append s, exec_slice_of_le hle, slice_append s.w s.pay⟩

end Sys2Proof.Machine
end

section
/-! SUPPORT. Proofs of the statements about `ERR` (R200, R206, R210): which error `DEC` and `ENC` report, for every request,
and what an error response carries. -/

namespace Sys2Proof.Machine

/-! ## One condition per value of `ERR` -/

/-- Three conditions that cover every case and each force a different `ERR` are each equivalent to theirs. -/
theorem err_iffs_of_exhaustive {e : Option DdpError} {a b : DdpError} {P Q R : Prop} (hab : a ≠ b) (hP : P → e = some a)
    (hQ : Q → e = some b) (hR : R → e = none) (hcover : P ∨ Q ∨ R) :
    (e = some a ↔ P) ∧ (e = some b ↔ Q) ∧ (e = none ↔ R) := by
  refine ⟨⟨fun he => ?_, hP⟩, ⟨fun he => ?_, hQ⟩, ⟨fun he => ?_, hR⟩⟩
  · simp only [he, Option.some.injEq, hab, reduceCtorEq, imp_false] at hQ hR
    exact hcover.resolve_right (not_or_intro hQ hR)
  · simp only [he, Option.some.injEq, hab.symm, reduceCtorEq, imp_false] at hP hR
    exact (hcover.resolve_left hP).resolve_right hR
  · simp only [he, reduceCtorEq, imp_false] at hP hQ
    exact (hcover.resolve_left hP).resolve_left hQ

/-! ## The error of `DEC` -/

section
variable {w : Bytes}

/-- One of the two length checks fails; the second is reached only with a size code other than 7 (R122, R127; decision
D9). -/
theorem decFrame_eq_tooShort
    (h : w.length < 10 ∨ w.length < 14 ∧ byteAt w 0 &&& 0x10#8 ≠ 0 ∧ byteAt w 2 &&& 7#8 ≠ 7) :
    decFrame w = .error .tooShort := by
  obtain hlt | hten := Nat.lt_or_ge w.length 10
  · exact decFrame_of_lt hlt
  · obtain ⟨hshort, hflag, hsize⟩ := h.resolve_left (Nat.not_lt.2 hten)
    obtain ⟨bpp, hz⟩ := exists_size2bpp_of_ne_seven (mt (fldSize_unpack_seven (byteAt w 2)).1 hsize)
    exact decFrame_of_timed_short hten hz ((fldTc_unpack_one (byteAt w 0)).2 hflag) hshort

/-- The size code is looked up before the second length check (R121; decision D9). -/
theorem decFrame_eq_unknownSizeCode (h : 10 ≤ w.length ∧ byteAt w 2 &&& 7#8 = 7) :
    decFrame w = .error .unknownSizeCode :=
  decFrame_of_seven h.1 ((fldSize_unpack_seven (byteAt w 2)).2 h.2)

variable (w) in
/-- A buffer is too short, has size code 7, or is a legal frame (R94). -/
theorem tooShort_or_seven_or_legalFrame :
    (w.length < 10 ∨ w.length < 14 ∧ byteAt w 0 &&& 0x10#8 ≠ 0 ∧ byteAt w 2 &&& 7#8 ≠ 7) ∨
      (10 ≤ w.length ∧ byteAt w 2 &&& 7#8 = 7) ∨ legalFrame w = true := by
  rw [legalFrame_iff]
  obtain hlt | hten := Nat.lt_or_ge w.length 10
  · exact .inl (.inl hlt)
  by_cases hsize : byteAt w 2 &&& 7#8 = 7
  · exact .inr (.inl ⟨hten, hsize⟩)
  by_cases hflag : byteAt w 0 &&& 0x10#8 = 0
  · exact .inr (.inr ⟨hten, .inl hflag, hsize⟩)
  obtain hshort | hlong := Nat.lt_or_ge w.length 14
  · exact .inl (.inr ⟨hshort, hflag, hsize⟩)
  · exact .inr (.inr ⟨hten, .inr hlong, hsize⟩)

end

/-- Settles O13: each of the three conditions forces its `ERR`, and they cover every buffer. -/
theorem decReportsTheFirstDefect : Obligations.DecReportsTheFirstDefect := fun s =>
  ⟨_, exec_dec s, err_iffs_of_exhaustive (by decide)
    (fun h => congrArg Prod.fst (decResult_of_error (decFrame_eq_tooShort h)))
    (fun h => congrArg Prod.fst (decResult_of_error (decFrame_eq_unknownSizeCode h)))
    (fun h => congrArg Prod.fst (decResult_of_ok (decFrame_of_legal h)))
    (tooShort_or_seven_or_legalFrame s.wire)⟩

/-! ## The error of `ENC` -/

/-- A packet has illegal bits per pixel, lacks a flagged timecode, or is one that `ENC` accepts (R143, R145). -/
theorem unsupported_or_missing_or_accepted (f : Ports) : f.bpp ∉ bppSet ∨ (f.bpp ∈ bppSet ∧ f.tc = 1#1 ∧ f.tcv = 0#1) ∨
    (f.bpp ∈ bppSet ∧ (f.tc = 1#1 → f.tcv = 1#1)) := by
  by_cases hbpp : f.bpp ∈ bppSet
  · by_cases htc : f.tc = 1#1
    · obtain htcv | htcv := BitVec.eq_zero_or_eq_one f.tcv
      · exact .inr (.inl ⟨hbpp, htc, htcv⟩)
      · exact .inr (.inr ⟨hbpp, fun _ => htcv⟩)
    · exact .inr (.inr ⟨hbpp, fun h => absurd h htc⟩)
  · exact .inl hbpp

/-- Settles O24: each of the three conditions forces its `ERR`, and they cover every packet. -/
theorem encReportsTheFirstDefect : Obligations.EncReportsTheFirstDefect := by
  intro s
  refine ⟨_, exec_enc s, err_iffs_of_exhaustive (by decide) (fun hbpp => ?_) (fun ⟨hbpp, htc, htcv⟩ => ?_)
    (fun ⟨hbpp, htime⟩ => ?_) (unsupported_or_missing_or_accepted s.f)⟩
  · have henc := encPacket_of_none s.pay ((bpp2size_none_iff s.f.bpp).2 hbpp)
    exact congrArg Prod.fst (encResult_of_error henc)
  · obtain ⟨z, hz⟩ := exists_bpp2size_of_mem_bppSet hbpp
    exact congrArg Prod.fst (encResult_of_error (encPacket_of_missing s.pay hz htc htcv))
  · obtain ⟨w, hw⟩ := exists_encPacket_ok s.pay hbpp htime
    exact congrArg Prod.fst (encResult_of_ok hw)

/-! ## What an error response carries -/

/-- The errors of `DEC` (R130). -/
theorem ofDec_eq_true_iff (e : DdpError) : e.ofDec = true ↔ e = .tooShort ∨ e = .unknownSizeCode := by
  cases e <;> decide

/-- The errors of `ENC` (R149). -/
theorem ofDec_eq_false_iff (e : DdpError) : e.ofDec = false ↔ e = .unsupportedBitsPerPixel ∨ e = .missingTimecode := by
  cases e <;> decide

/-- Settles O14: either algorithm ends in a result, with `ERR` = `OK`, or in one of its own errors. -/
theorem errorResponseHasZeroResult : Obligations.ErrorResponseHasZeroResult := by
  intro s
  constructor
  · cases hdec : decFrame s.wire with
    | ok r => exact ⟨none, r.1, r.2, exec_dec_of_ok hdec, fun h => absurd rfl h⟩
    | error e =>
      have herr := (ofDec_eq_true_iff e).1 (decFrame_error hdec)
      exact ⟨some e, _, _, exec_dec_of_error hdec, fun _ => ⟨rfl, rfl, herr.imp (congrArg some) (congrArg some)⟩⟩
  · cases henc : encPacket s.f s.pay with
    | ok w => exact ⟨none, w, exec_enc_of_ok henc, fun h => absurd rfl h⟩
    | error e =>
      have herr := (ofDec_eq_false_iff e).1 (encPacket_error henc)
      exact ⟨some e, _, exec_enc_of_error henc, fun _ => ⟨rfl, herr.imp (congrArg some) (congrArg some)⟩⟩

end Sys2Proof.Machine
end
